-- ==== Sys2Proof/Word.lean ====
section
/-! DEFINITION. The word and byte types of the core (00_scope.md R9, R12, R16): 32-bit unsigned words, arithmetic modulo 2^32. -/

namespace Sys2Proof

/-- A 32-bit unsigned word; bit 0 is the least significant bit (R12). `+` and `-` wrap modulo 2^32 (R13). -/
abbrev Word := BitVec 32

/-- One byte of a serialised word sequence (R16). -/
abbrev Byte := BitVec 8

end Sys2Proof
end

