-- ==== Sys2Proof/Config.lean ====
section
/-! DEFINITION. What an implementation fixes and the spec leaves open (00_scope.md R10, R11): bodyless constants, so that no
proof can see their values, and the shapes the spec constrains them by (42_counter.md R191, R200; R42 "prime"). -/

namespace Sys2Proof

/-- The two byte orders a parameter of R10 may take. -/
inductive ByteOrder where
  | big
  | little
deriving DecidableEq, Repr, Inhabited

/-- Which counter value the host's AEAD feeds to PKEYGEN (R10 `AUTH_CTR_SOURCE`). -/
inductive AuthCtrSource where
  | advanced
  | initial
deriving DecidableEq, Repr, Inhabited

/-- One of the two accumulator words of the cipher counter derivation (42_counter.md R191 (b)). -/
inductive AccWord where
  | a0
  | a1
deriving DecidableEq, Repr, Inhabited

/-- What 42_counter.md R191 (d), (e), (g) leave open of `CTR_STEP` (R10): which operands and which words its operations act on
(91_not_in_source.md N3), and which xors an xor-swap is made of (93_implementation_defined.md G1; log 7). What R191 fixes is in
`Machine.ctrDerive`, which is CTR_STEP as a function of these. -/
structure CtrClauses where
  /-- whether odd `i` selects the key word, and even `i` the nonce/F word (R191 (d), D14) -/
  keyOnOdd : Bool
  /-- R191 (e) 1 and 5: the word the other word is subtracted from (N3, "which operand ... is subtracted from which") -/
  subMinuend : AccWord
  /-- R191 (e) 1 and 5: the word that gets the difference -/
  subTarget : AccWord
  /-- R191 (e) 1 and 5: the xors of the xor-swap, the first and the further ones, in order. Each names the word that is xored
  with the other word; that they make an exchange of the two is REF-A's reading only (R192, G1) -/
  xorSwap : AccWord × List AccWord
  /-- R191 (e) 1 and 5: whether the subtraction comes before the xor-swap -/
  subFirst : Bool
  /-- R191 (e) 2: the word sel_i is added to (N3, "which word the selected word is added to") -/
  addTarget : AccWord
  /-- R191 (e) 4: the word the xor with sel_i applies to (N3, "what xors/adds applies to which word") -/
  xorTarget : AccWord
  /-- R191 (e) 4: the word the addition of sel_i applies to -/
  xorAddTarget : AccWord
  /-- R191 (e) 4: whether the xor comes before the addition, which matters when both apply to one word -/
  xorFirst : Bool
  /-- whether CTR[0] gets a1 rather than a0 (N3, "the output word order") -/
  outSwapped : Bool
deriving DecidableEq, Repr, Inhabited

/-- The clauses of the PRNG counter derivation that 42_counter.md R200 leaves open (91_not_in_source.md N4). -/
structure PrngClauses where
  /-- how the 4-word vector is first formed from SEED and PRIME -/
  init : Vector Word 8 → Vector Word 4 → Vector Word 4
  /-- the fixed index quadruple of application `j`: four distinct indices of 0..3, so a permutation of them -/
  quad : Nat → Equiv.Perm (Fin 4)

/-- The parameters of the core (R10), taken as one argument by every function that depends on one of them (R11). -/
structure Params where
  sigF : Vector Word 2
  prime : Vector Word 4
  ctr : CtrClauses
  prng : PrngClauses
  rsOrder : ByteOrder

/-- The signature constant F (R10 `SIG_F`, R41): open, U1. -/
opaque Config.sigF : Vector Word 2

/-- Four free words, from which `Config.prime` makes the prime table. -/
opaque Config.primeCandidate : Vector Word 4

/-- The prime table P (R10 `PRIME`, R42): open, U2, each word prime. A free word that is no prime is replaced by the
prime 2; as the free words are any words, the table is any table of four 32-bit primes. -/
def Config.prime : Vector Word 4 :=
  Config.primeCandidate.map fun w => if Nat.Prime w.toNat then w else 2

/-- The open clauses of CTR_STEP (R10, R191, D13, D14). Open, U3. -/
opaque Config.ctr : CtrClauses

/-- R200: how SEED and PRIME form the first 4-word vector. Open, U4. -/
opaque Config.prngInit : Vector Word 8 → Vector Word 4 → Vector Word 4

/-- R200 (b): the fixed rotation pattern. Open, U4. -/
opaque Config.prngQuad : Nat → Equiv.Perm (Fin 4)

/-- R10 `RS_BYTE_ORDER`. Open, U5. -/
opaque Config.rsOrder : ByteOrder

/-- The parameters this core was built with. -/
def Config.params : Params where
  sigF := Config.sigF
  prime := Config.prime
  ctr := Config.ctr
  prng := { init := Config.prngInit, quad := Config.prngQuad }
  rsOrder := Config.rsOrder

/-- LAT(op) - 1 of the command drawn as number `n`, whose opcode is `op` (70_reset_and_hazards.md R361, D37, U9): a natural
with no upper bound. A fresh draw per command covers a latency that depends on the data too (U26). -/
opaque Config.latency (op : BitVec 8) (n : Nat) : Nat

/-- What draw `n` reads: the unspecified value of a read of an RW-idle register or TAG while BUSY = 1 (R357, U11). -/
opaque Config.busyRead (n : Nat) : Word

/-- R10 `MSG_WORD_ORDER`, host side. Open, U6. -/
opaque Config.msgWordOrder : ByteOrder

/-- R10 `TAG_BYTE_ORDER`, host side. Open, U7. -/
opaque Config.tagByteOrder : ByteOrder

/-- R10 `AUTH_CTR_SOURCE`, host side. Open, U8. -/
opaque Config.authCtrSource : AuthCtrSource

/-- 20_memory.md R90 `VTX_BASE`: where the platform places the register window. Open, U10. -/
opaque Config.vtxBase : Nat

end Sys2Proof
end

