-- ==== Sys2Proof/Syntax.lean ====
section
/-! DEFINITION. The commands of VTX-CMD version 1 (30_encoding.md R116), one constructor per row of spec/opcode_table.json. -/

namespace Sys2Proof

/-- A command with its operands (R112, R113, R114). -/
inductive Instr where
  /-- OP 0x00, format N (R280) -/
  | nop
  /-- OP 0x01, format Q: four STATE indices (R151) -/
  | qr (a b c d : BitVec 4)
  /-- OP 0x02, format N (R173) -/
  | round
  /-- OP 0x03, format N (R174) -/
  | perm
  /-- OP 0x0F, format N (R281) -/
  | zero
  /-- OP 0x10, format N (R193) -/
  | ctrd
  /-- OP 0x11, format N (R202) -/
  | pctrd
  /-- OP 0x20, format N (R221) -/
  | ksblk
  /-- OP 0x21, format N (R224) -/
  | pksblk
  /-- OP 0x30, format N (R251) -/
  | pkeygen
  /-- OP 0x31, format N (R254) -/
  | pinit
  /-- OP 0x32, format W: a 16-bit message word (R255) -/
  | pabs (w : BitVec 16)
  /-- OP 0x33, format N (R256) -/
  | pfin
deriving DecidableEq, Repr

end Sys2Proof
end

