-- ==== Sys2Proof/WellFormed.lean ====
section
/-! DEFINITION. The one check on a decoded command's operands (40_arx.md R152). Every other field admits every value. -/

namespace Sys2Proof

/-- Whether four STATE indices are pairwise distinct (R152). -/
def indicesDistinct (a b c d : BitVec 4) : Bool :=
  a != b && a != c && a != d && b != c && b != d && c != d

/-- A command that may start: QR needs "four distinct index positions" (R152). -/
def Instr.wellFormed : Instr → Bool
  | .nop => true
  | .qr a b c d => indicesDistinct a b c d
  | .round => true
  | .perm => true
  | .zero => true
  | .ctrd => true
  | .pctrd => true
  | .ksblk => true
  | .pksblk => true
  | .pkeygen => true
  | .pinit => true
  | .pabs _ => true
  | .pfin => true

end Sys2Proof
end

