-- ==== Sys2Proof/Decode.lean ====
section
/-! DEFINITION. Decoding and encoding of the 32-bit command word (30_encoding.md R110 to R119). Total: every word is a
command, an undefined opcode or a defined opcode with a reserved bit set (R119). -/

namespace Sys2Proof

/-- Why a command word is no command (R117, R118). -/
inductive DecodeError where
  /-- OP is not in R116's table -/
  | illegalOp
  /-- OP is defined and a reserved bit is 1 -/
  | reservedBits
deriving DecidableEq, Repr

/-- The field `OP = cmd[7:0]` (R111). -/
def opField (cmd : Word) : BitVec 8 := cmd.extractLsb' 0 8

/-- Format N: bits 31:8 are reserved (R112). -/
def decodeN (cmd : Word) (i : Instr) : Except DecodeError Instr :=
  if cmd.extractLsb' 8 24 = 0 then .ok i else .error .reservedBits

/-- Format Q: A, B, C, D in bits 11:8, 15:12, 19:16, 23:20; bits 31:24 are reserved (R113). -/
def decodeQ (cmd : Word) : Except DecodeError Instr :=
  if cmd.extractLsb' 24 8 = 0 then
    .ok (.qr (cmd.extractLsb' 8 4) (cmd.extractLsb' 12 4) (cmd.extractLsb' 16 4) (cmd.extractLsb' 20 4))
  else .error .reservedBits

/-- Format W: W16 in bits 31:16; bits 15:8 are reserved (R114). -/
def decodeW (cmd : Word) : Except DecodeError Instr :=
  if cmd.extractLsb' 8 8 = 0 then .ok (.pabs (cmd.extractLsb' 16 16)) else .error .reservedBits

/-- The decoder: the opcode map of R116, then the reserved bits of the opcode's format (R118, R120 steps 3 and 4). A QR word
with equal indices decodes to QR: its refusal is by value (R119, R152). -/
def decodeWord (cmd : Word) : Except DecodeError Instr :=
  match (opField cmd).toNat with
  | 0x00 => decodeN cmd .nop
  | 0x01 => decodeQ cmd
  | 0x02 => decodeN cmd .round
  | 0x03 => decodeN cmd .perm
  | 0x0F => decodeN cmd .zero
  | 0x10 => decodeN cmd .ctrd
  | 0x11 => decodeN cmd .pctrd
  | 0x20 => decodeN cmd .ksblk
  | 0x21 => decodeN cmd .pksblk
  | 0x30 => decodeN cmd .pkeygen
  | 0x31 => decodeN cmd .pinit
  | 0x32 => decodeW cmd
  | 0x33 => decodeN cmd .pfin
  | _ => .error .illegalOp

/-- A row of the opcode map in match/mask form (R116). -/
structure OpcodeRow where
  mnemonic : String
  mask : Word
  pattern : Word
deriving DecidableEq, Repr

/-- The opcode map of R116: mask 0xFFFFFFFF for format N, 0xFF0000FF for format Q, 0x0000FFFF for format W. -/
def opcodeRows : List OpcodeRow :=
  [ ⟨"NOP", 0xFFFFFFFF, 0x00⟩, ⟨"QR", 0xFF0000FF, 0x01⟩, ⟨"ROUND", 0xFFFFFFFF, 0x02⟩, ⟨"PERM", 0xFFFFFFFF, 0x03⟩,
    ⟨"ZERO", 0xFFFFFFFF, 0x0F⟩, ⟨"CTRD", 0xFFFFFFFF, 0x10⟩, ⟨"PCTRD", 0xFFFFFFFF, 0x11⟩, ⟨"KSBLK", 0xFFFFFFFF, 0x20⟩,
    ⟨"PKSBLK", 0xFFFFFFFF, 0x21⟩, ⟨"PKEYGEN", 0xFFFFFFFF, 0x30⟩, ⟨"PINIT", 0xFFFFFFFF, 0x31⟩,
    ⟨"PABS", 0x0000FFFF, 0x32⟩, ⟨"PFIN", 0xFFFFFFFF, 0x33⟩ ]

/-- Whether a command word matches a row (R116). -/
def OpcodeRow.matchesWord (r : OpcodeRow) (cmd : Word) : Bool := cmd &&& r.mask == r.pattern

/-- The opcode of a command (R116). -/
def Instr.opcode : Instr → BitVec 8
  | .nop => 0x00
  | .qr _ _ _ _ => 0x01
  | .round => 0x02
  | .perm => 0x03
  | .zero => 0x0F
  | .ctrd => 0x10
  | .pctrd => 0x11
  | .ksblk => 0x20
  | .pksblk => 0x21
  | .pkeygen => 0x30
  | .pinit => 0x31
  | .pabs _ => 0x32
  | .pfin => 0x33

/-- A field placed at bit `lo` of a word whose other bits are 0. -/
def fieldAt {n : Nat} (v : BitVec n) (lo : Nat) : Word := v.setWidth 32 <<< lo

/-- The operand fields of a command word, with OP and every reserved bit 0 (R112, R113, R114). -/
def Instr.operandBits : Instr → Word
  | .qr a b c d => fieldAt d 20 ||| fieldAt c 16 ||| fieldAt b 12 ||| fieldAt a 8
  | .pabs w => fieldAt w 16
  | .nop | .round | .perm | .zero | .ctrd | .pctrd | .ksblk | .pksblk | .pkeygen | .pinit | .pfin => 0

/-- The command word of a command: `enc` of R123. -/
def encode (i : Instr) : Word := i.operandBits ||| fieldAt i.opcode 0

/-- The command the decoder reads from the low `nbits` bits of `w`, numbered as spec/opcode_table.json numbers them; the bits
above are 0. A command is one 32-bit word written whole to CMD (R110), so no byte order enters. -/
def decodeTableWord (nbits w : Nat) : Option Instr :=
  match decodeWord (BitVec.ofNat 32 (w % 2 ^ nbits)) with
  | .ok i => some i
  | .error _ => none

end Sys2Proof
end

