-- ==== Sys2Proof/Machine/State.lean ====
section
/-! DEFINITION. The state of the core (10_state.md R30 to R60), its reset value (R59) and the reasons a step can stop. -/

namespace Sys2Proof.Machine

open Sys2Proof

/-- The error codes of R37 and R301; codes 7 to 15 are never produced. -/
inductive ErrCode where
  /-- 0 NONE -/
  | none
  /-- 1 ILLEGAL_OP -/
  | illegalOp
  /-- 2 RESERVED_BITS -/
  | reservedBits
  /-- 3 QR_ALIAS -/
  | qrAlias
  /-- 4 CMD_BUSY -/
  | cmdBusy
  /-- 5 WRITE_BUSY -/
  | writeBusy
  /-- 6 BAD_ACCESS -/
  | badAccess
deriving DecidableEq, Repr

/-- The command latch while a command is in flight (R55 (a), R60): the command word, and how many more clock cycles pass
before the cycle that completes it (the remaining latency less one; log 3). -/
structure Latched where
  word : Word
  wait : Nat
deriving DecidableEq, Repr

/-- One access the host presents (20_memory.md R81). -/
structure BusAccess where
  /-- `bus_write` -/
  write : Bool
  /-- `bus_addr[8:0]`, a byte offset -/
  addr : BitVec 9
  /-- `bus_wdata[31:0]` -/
  wdata : Word
  /-- `bus_be[3:0]` -/
  be : BitVec 4
deriving DecidableEq, Repr

/-- One clock cycle of the ports the host drives: `rst_n`, and the access presented (none is `bus_valid` = 0). -/
structure BusCycle where
  rstN : Bool
  access : Option BusAccess
deriving DecidableEq, Repr

/-- The core's answer to an access (R81). The spec states no `bus_rdata` for a write (log 15). -/
inductive BusAnswer where
  /-- `bus_rdata` and `bus_err` of a read -/
  | read (rdata : Word) (busErr : Bool)
  /-- `bus_err` of a write -/
  | write (busErr : Bool)
deriving DecidableEq, Repr

/-- The machine: the registers of R30 and the command latch, and the model's own `env`, `busAnswer` and `draws`. ID, SIGF and
PRIME are hardwired and the interrupt line is a function of the state (R60), so none of them is a field. -/
structure State where
  /-- STATUS.BUSY (R34) -/
  busy : Bool
  /-- STATUS.DONE (R35) -/
  done : Bool
  /-- STATUS.ERR (R36) -/
  err : Bool
  /-- STATUS.ERRCODE (R37) -/
  errcode : ErrCode
  /-- IRQEN.DONE_IE (R38) -/
  doneIe : Bool
  /-- IRQEN.ERR_IE (R38) -/
  errIe : Bool
  /-- PHASE.KSPH (R39) -/
  ksph : Fin 2
  /-- PHASE.PPH (R39) -/
  pph : Fin 4
  /-- ERRINFO (R40) -/
  errinfo : Word
  /-- STATE0..STATE15 (R43) -/
  block : Vector Word 16
  /-- KEY0..KEY7 (R44) -/
  key : Vector Word 8
  /-- NONCE0..NONCE5 (R45) -/
  nonce : Vector Word 6
  /-- CTR0..CTR1 (R46) -/
  ctr : Vector Word 2
  /-- SEED0..SEED7 (R47) -/
  seed : Vector Word 8
  /-- PCTR0..PCTR3 (R48) -/
  pctr : Vector Word 4
  /-- R0..R3 as one integer (R49) -/
  authR : BitVec 128
  /-- S0..S3 as one integer (R50) -/
  authS : BitVec 128
  /-- ACC0..ACC4 as one integer of 130 bits (R51) -/
  acc : BitVec 130
  /-- TAG0..TAG3 as one integer (R52) -/
  tag : BitVec 128
  /-- the command latch (R55 (a)) -/
  latch : Option Latched
  /-- the model's own: what the host drives in the coming clock cycles, next first (log 1) -/
  env : List BusCycle
  /-- the model's own: the answer to the last access presented (log 15) -/
  busAnswer : Option BusAnswer
  /-- the model's own: how many free values have been drawn (log 4) -/
  draws : Nat
deriving DecidableEq, Repr

/-- Why the machine can stop. Neither is reached from reset: `Safety.Inv` rules both out (log 14). -/
inductive Fault where
  /-- Raised by `fetchLatched` when STATUS.BUSY = 1 and no command is in the latch, which R34 excludes. Safe: no claim about
  a reachable state rests on it. -/
  | latchEmpty
  /-- Raised by `fetchLatched` when the latch holds a word that decodes to no command, which no accepting write stores
  (60_exceptions.md R300). Safe, as above. -/
  | latchUndefined
deriving DecidableEq, Repr

/-- Why an instruction has no meaning. -/
inductive Refusal where
  /-- Raised by an arm of `exec` for an instruction with no meaning yet. Safe. No arm of this model raises it. -/
  | notModelled (mnemonic : String)
deriving DecidableEq, Repr

/-- The machine after reset (10_state.md R59, 70_reset_and_hazards.md R350): every register 0, no command in flight. The
model's own fields: no coming cycles, no answer given, no value drawn (logs 1, 4, 15). -/
def State.reset : State where
  busy := false
  done := false
  err := false
  errcode := .none
  doneIe := false
  errIe := false
  ksph := 0
  pph := 0
  errinfo := 0
  block := Vector.replicate 16 0
  key := Vector.replicate 8 0
  nonce := Vector.replicate 6 0
  ctr := Vector.replicate 2 0
  seed := Vector.replicate 8 0
  pctr := Vector.replicate 4 0
  authR := 0
  authS := 0
  acc := 0
  tag := 0
  latch := none
  env := []
  busAnswer := none
  draws := 0

end Sys2Proof.Machine
end

