-- ==== Sys2Proof/Machine/Operands.lean ====
section
/-! DEFINITION. Word arithmetic, word/byte conversion, the words of a multi-word register and the operands of the commands
(00_scope.md R12 to R17, 30_encoding.md R115, 43_keystream.md R220 and R223, 44_poly1305.md R252). -/

namespace Sys2Proof.Machine

open Sys2Proof

/-- Left rotation with wraparound, for 0 ≤ n ≤ 31 (R13). -/
def rotl (x : Word) (n : Nat) : Word := (x <<< n) ||| (x >>> (32 - n))

/-- Word `k` of a multi-word register used as an integer: X = Σ X[k]·2^(32k) (R14). Bits above the register read 0 (R53). -/
def getWord {n : Nat} (x : BitVec n) (k : Nat) : Word := (x >>> (32 * k)).setWidth 32

/-- Word `k` of a multi-word register replaced by `v`; bits above the register are ignored (R14, R53). -/
def putWord {n : Nat} (x : BitVec n) (k : Nat) (v : Word) : BitVec n :=
  (x &&& ~~~((BitVec.allOnes 32).setWidth n <<< (32 * k))) ||| (v.setWidth n <<< (32 * k))

/-- A 4-bit STATE index used as a natural in 0..15 (R115). -/
def stateIndex (i : BitVec 4) : Fin 16 := ⟨i.toNat, i.isLt⟩

/-- The operand `w` of PABS as a natural in 0..65535: `zext`, never sign-extended (R115). -/
def messageWord (w : BitVec 16) : Nat := w.toNat

/-- Byte `t` of a word: bits 8t+7:8t (R16). -/
def byteOf (x : Word) (t : Nat) : Byte := x.extractLsb' (8 * t) 8

/-- The 4-byte little-endian serialisation of a word (R16). -/
def leBytes (x : Word) : List Byte := [byteOf x 0, byteOf x 1, byteOf x 2, byteOf x 3]

/-- The word of four bytes, the first least significant (R16). -/
def leWord (b0 b1 b2 b3 : Byte) : Word := fieldAt b0 0 ||| fieldAt b1 8 ||| fieldAt b2 16 ||| fieldAt b3 24

/-- The serialisation of a word sequence, word by word in increasing index order (R16). -/
def wordBytes (ws : List Word) : List Byte := ws.flatMap leBytes

/-- The `n` words of a byte list, each from its next four bytes, the first least significant (R16, 20_memory.md R84). A byte
past the end of the list counts as 0: the lists of R44, R45 and R47 have exactly 4n bytes. -/
def wordsOfBytes (n : Nat) (bs : List Byte) : Vector Word n :=
  Vector.ofFn fun k : Fin n =>
    leWord (bs.getD (4 * k.val) 0) (bs.getD (4 * k.val + 1) 0) (bs.getD (4 * k.val + 2) 0) (bs.getD (4 * k.val + 3) 0)

/-- KEY0..KEY7 of the 32 bytes of the Key (10_state.md R44, R84). -/
def keyOfBytes (key : List Byte) : Vector Word 8 := wordsOfBytes 8 key

/-- NONCE0..NONCE5 of the 24 bytes of the Nonce (10_state.md R45, R84). -/
def nonceOfBytes (nonce : List Byte) : Vector Word 6 := wordsOfBytes 6 nonce

/-- SEED0..SEED7 of the 32 bytes of the seed digest (10_state.md R47, R84). -/
def seedOfBytes (seed : List Byte) : Vector Word 8 := wordsOfBytes 8 seed

/-- The big-endian integer of a byte list (R17 `int_be`). -/
def intBe (bs : List Byte) : Nat := bs.foldl (fun acc b => acc * 256 + b.toNat) 0

/-- The little-endian integer of a byte list (R17 `int_le`). -/
def intLe (bs : List Byte) : Nat := bs.foldr (fun b acc => b.toNat + 256 * acc) 0

/-- INT, the interpretation of 16 bytes as an unsigned integer under `RS_BYTE_ORDER` (R252). -/
def keyInt (order : ByteOrder) (bs : List Byte) : BitVec 128 :=
  match order with
  | .big => BitVec.ofNat 128 (intBe bs)
  | .little => BitVec.ofNat 128 (intLe bs)

/-- A word with its four bytes reversed (R252). -/
def bswap32 (x : Word) : Word := leWord (byteOf x 3) (byteOf x 2) (byteOf x 1) (byteOf x 0)

/-- The cipher block: KEY, NONCE, CTR (R220). -/
def loadC (s : State) : Vector Word 16 := s.key ++ s.nonce ++ s.ctr

/-- The PRNG block: PRIME, SEED, PCTR (R223). -/
def loadP (p : Params) (s : State) : Vector Word 16 := p.prime ++ s.seed ++ s.pctr

end Sys2Proof.Machine
end

