-- ==== Sys2Proof/Machine/Flags.lean ====
section
/-! DEFINITION. The status and control words as the host reads them, and the interrupt line (10_state.md R33, R38, R39,
60_exceptions.md R301, R311). The core has no other flag (R58). -/

namespace Sys2Proof.Machine

open Sys2Proof

/-- The 4-bit value of an error code (R37). -/
def ErrCode.toBits : ErrCode → BitVec 4
  | .none => 0
  | .illegalOp => 1
  | .reservedBits => 2
  | .qrAlias => 3
  | .cmdBusy => 4
  | .writeBusy => 5
  | .badAccess => 6

/-- `bus_err` of the access that raises an error: 1 for codes 4, 5 and 6, 0 for codes 1, 2 and 3 (R303). -/
def ErrCode.busErr : ErrCode → Bool
  | .none => false
  | .illegalOp => false
  | .reservedBits => false
  | .qrAlias => false
  | .cmdBusy => true
  | .writeBusy => true
  | .badAccess => true

/-- STATUS as read: BUSY bit 0, DONE bit 1, ERR bit 2, bit 3 zero, ERRCODE bits 7:4, the rest zero (R33). -/
def statusWord (s : State) : Word :=
  fieldAt s.errcode.toBits 4 ||| fieldAt (BitVec.ofBool s.err) 2 ||| fieldAt (BitVec.ofBool s.done) 1 |||
    fieldAt (BitVec.ofBool s.busy) 0

/-- IRQEN as read: DONE_IE bit 0, ERR_IE bit 1, the rest zero (R38). -/
def irqenWord (s : State) : Word := fieldAt (BitVec.ofBool s.errIe) 1 ||| fieldAt (BitVec.ofBool s.doneIe) 0

/-- PHASE as read: KSPH bit 0, PPH bits 2:1, the rest zero (R39). -/
def phaseWord (s : State) : Word := BitVec.ofNat 32 (s.ksph.val + 2 * s.pph.val)

/-- The field KSPH of a word written to PHASE (R39). -/
def phaseKsph (v : Word) : Fin 2 := ⟨v.toNat % 2, Nat.mod_lt _ (by decide)⟩

/-- The field PPH of a word written to PHASE (R39). -/
def phasePph (v : Word) : Fin 4 := ⟨v.toNat / 2 % 4, Nat.mod_lt _ (by decide)⟩

/-- The interrupt output, level and active-high (R311). -/
def State.irq (s : State) : Bool := (s.done && s.doneIe) || (s.err && s.errIe)

end Sys2Proof.Machine
end

