-- ==== Sys2Proof/Machine/Ops.lean ====
section
/-! DEFINITION. The operations every command and access shares: the end of a command (60_exceptions.md R300), raising an
error and returning from one (R303, R307), accepting a command, reading the latch, reset (70_reset_and_hazards.md R350), and
the register map with its access classes (10_state.md R30, R54). -/

namespace Sys2Proof.Machine

open Sys2Proof

/-- The command in flight leaves the sequencer: BUSY 0, the latch empty (R300). -/
def retire (s : State) : State := { s with busy := false, latch := none }

/-- A completion step's own writes: BUSY 0, DONE 1, the latch empty (R300, R35). -/
def complete (s : State) : State := { retire s with done := true }

/-- `raise Error(code, info)` (R303): the first error since ERR was clear is recorded, a later one is not. -/
def raiseError (code : ErrCode) (info : Word) (s : State) : State :=
  if s.err then s else { s with err := true, errcode := code, errinfo := info }

/-- Returning from an error: ERR, ERRCODE and ERRINFO cleared (R307, R36). -/
def clearError (s : State) : State := { s with err := false, errcode := .none, errinfo := 0 }

/-- The W1C actions of a write to STATUS: bit 1 clears DONE (R35), bit 2 returns from the error (R36). -/
def writeStatus (v : Word) (s : State) : State :=
  let s := if v.getLsbD 1 then { s with done := false } else s
  if v.getLsbD 2 then clearError s else s

/-- Accept (R300): the word is latched and BUSY set; the latency of this command is drawn (R361). -/
def accept (v : Word) (s : State) : State :=
  { s with busy := true, latch := some ⟨v, Config.latency (opField v) s.draws⟩, draws := s.draws + 1 }

/-- The command in the latch, as the decoder reads it. The model's two stops are here (log 14). -/
def fetchLatched (s : State) : Except Fault Instr :=
  match s.latch with
  | none => .error .latchEmpty
  | some l =>
    match decodeWord l.word with
    | .ok i => .ok i
    | .error _ => .error .latchUndefined

/-- Every register forced to its reset value, a command in flight abandoned (R350, R351). The model's own fields are not
registers and stay (log 17). -/
def resetRegisters (s : State) : State :=
  { State.reset with env := s.env, busAnswer := s.busAnswer, draws := s.draws }

/-- The registers of the window (R30); word `k` of a multi-word register carries its index. -/
inductive Reg where
  | id
  | cmd
  | status
  | irqen
  | phase
  | errinfo
  | sigf (k : Fin 2)
  | prime (k : Fin 4)
  | state (k : Fin 16)
  | key (k : Fin 8)
  | nonce (k : Fin 6)
  | ctr (k : Fin 2)
  | seed (k : Fin 8)
  | pctr (k : Fin 4)
  | r (k : Fin 4)
  | s (k : Fin 4)
  | acc (k : Fin 5)
  | tag (k : Fin 4)
deriving DecidableEq, Repr

/-- The byte offset of a register: base(X) + 4k (R30). -/
def Reg.offset : Reg → Nat
  | .id => 0x000
  | .cmd => 0x004
  | .status => 0x008
  | .irqen => 0x00C
  | .phase => 0x010
  | .errinfo => 0x014
  | .sigf k => 0x018 + 4 * k.val
  | .prime k => 0x020 + 4 * k.val
  | .state k => 0x040 + 4 * k.val
  | .key k => 0x080 + 4 * k.val
  | .nonce k => 0x0A0 + 4 * k.val
  | .ctr k => 0x0B8 + 4 * k.val
  | .seed k => 0x0C0 + 4 * k.val
  | .pctr k => 0x0E0 + 4 * k.val
  | .r k => 0x100 + 4 * k.val
  | .s k => 0x110 + 4 * k.val
  | .acc k => 0x120 + 4 * k.val
  | .tag k => 0x140 + 4 * k.val

/-- Word index `off / 4 - base / 4` when the offset lies in a register of `n` words at `base`. -/
def wordIn (base n off : Nat) : Option (Fin n) :=
  if h : base ≤ off ∧ off < base + 4 * n then some ⟨(off - base) / 4, by omega⟩ else none

/-- The register at a byte offset: none where the offset is misaligned (R82) or unmapped (R85). -/
def regAt (off : Nat) : Option Reg :=
  if off % 4 ≠ 0 then none
  else if off = 0x000 then some .id
  else if off = 0x004 then some .cmd
  else if off = 0x008 then some .status
  else if off = 0x00C then some .irqen
  else if off = 0x010 then some .phase
  else if off = 0x014 then some .errinfo
  else (wordIn 0x018 2 off).map .sigf
    <|> (wordIn 0x020 4 off).map .prime
    <|> (wordIn 0x040 16 off).map .state
    <|> (wordIn 0x080 8 off).map .key
    <|> (wordIn 0x0A0 6 off).map .nonce
    <|> (wordIn 0x0B8 2 off).map .ctr
    <|> (wordIn 0x0C0 8 off).map .seed
    <|> (wordIn 0x0E0 4 off).map .pctr
    <|> (wordIn 0x100 4 off).map .r
    <|> (wordIn 0x110 4 off).map .s
    <|> (wordIn 0x120 5 off).map .acc
    <|> (wordIn 0x140 4 off).map .tag

/-- The access classes of R54. -/
inductive AccessClass where
  /-- PHASE and every data register except TAG -/
  | rwIdle
  /-- IRQEN -/
  | rw
  /-- ID, ERRINFO, SIGF, PRIME -/
  | ro
  /-- TAG -/
  | tag
  /-- STATUS -/
  | status
  /-- CMD -/
  | cmd
deriving DecidableEq, Repr

/-- The access class of a register (R54). -/
def Reg.accessClass : Reg → AccessClass
  | .id => .ro
  | .cmd => .cmd
  | .status => .status
  | .irqen => .rw
  | .phase => .rwIdle
  | .errinfo => .ro
  | .sigf _ => .ro
  | .prime _ => .ro
  | .state _ => .rwIdle
  | .key _ => .rwIdle
  | .nonce _ => .rwIdle
  | .ctr _ => .rwIdle
  | .seed _ => .rwIdle
  | .pctr _ => .rwIdle
  | .r _ => .rwIdle
  | .s _ => .rwIdle
  | .acc _ => .rwIdle
  | .tag _ => .tag

/-- Whether a read while BUSY = 1 returns an unspecified value (R54, R357). -/
def Reg.freeWhileBusy (r : Reg) : Bool := r.accessClass = .rwIdle || r.accessClass = .tag

/-- The value of a register (R31 to R53): ID is the constant of R31, CMD reads 0 (R32, R87), SIGF and PRIME are hardwired
(R41, R42), reserved bits read 0 (R53). -/
def readReg (p : Params) (s : State) : Reg → Word
  | .id => 0x56545831
  | .cmd => 0
  | .status => statusWord s
  | .irqen => irqenWord s
  | .phase => phaseWord s
  | .errinfo => s.errinfo
  | .sigf k => p.sigF[k]
  | .prime k => p.prime[k]
  | .state k => s.block[k]
  | .key k => s.key[k]
  | .nonce k => s.nonce[k]
  | .ctr k => s.ctr[k]
  | .seed k => s.seed[k]
  | .pctr k => s.pctr[k]
  | .r k => getWord s.authR k.val
  | .s k => getWord s.authS k.val
  | .acc k => getWord s.acc k.val
  | .tag k => getWord s.tag k.val

/-- A value stored in a register the host may write (IRQEN, PHASE and the data registers except TAG: R38, R39, R43 to R51);
reserved bits are ignored (R53). The other registers hold nothing a write stores, and keep their values. -/
def storeReg (v : Word) (s : State) : Reg → State
  | .irqen => { s with doneIe := v.getLsbD 0, errIe := v.getLsbD 1 }
  | .phase => { s with ksph := phaseKsph v, pph := phasePph v }
  | .state k => { s with block := s.block.set k v }
  | .key k => { s with key := s.key.set k v }
  | .nonce k => { s with nonce := s.nonce.set k v }
  | .ctr k => { s with ctr := s.ctr.set k v }
  | .seed k => { s with seed := s.seed.set k v }
  | .pctr k => { s with pctr := s.pctr.set k v }
  | .r k => { s with authR := putWord s.authR k.val v }
  | .s k => { s with authS := putWord s.authS k.val v }
  | .acc k => { s with acc := putWord s.acc k.val v }
  | .id => s
  | .cmd => s
  | .status => s
  | .errinfo => s
  | .sigf _ => s
  | .prime _ => s
  | .tag _ => s

end Sys2Proof.Machine
end

