-- ==== Sys2Proof/Machine/Bus.lean ====
section
/-! DEFINITION. One host access of the register window (20_memory.md R81 to R88, 60_exceptions.md R300 to R308). -/

namespace Sys2Proof.Machine

open Sys2Proof

/-- The answer recorded for the access. -/
def answer (a : BusAnswer) (s : State) : State := { s with busAnswer := some a }

/-- The byte offset of an access, zero-extended: the ERRINFO of an access error (R305). -/
def accessInfo (a : BusAccess) : Word := a.addr.setWidth 32

/-- The register an access reaches: none where it is misaligned, has a partial byte enable or an unmapped offset (R82, R85). -/
def accessedReg (a : BusAccess) : Option Reg :=
  if a.be = 0xF then regAt a.addr.toNat else none

/-- A write refused with an error: it is dropped (R303). -/
def refuseWrite (code : ErrCode) (info : Word) (s : State) : State :=
  answer (.write code.busErr) (raiseError code info s)

/-- A read refused with an error: it returns 0 (R303). -/
def refuseRead (code : ErrCode) (info : Word) (s : State) : State :=
  answer (.read 0 code.busErr) (raiseError code info s)

/-- A write to CMD, in the order of R302: ERR = 1 (R304), CMD_BUSY, ILLEGAL_OP, RESERVED_BITS, QR_ALIAS, accept. -/
def writeCmd (v : Word) (s : State) : State :=
  if s.err then answer (.write true) s
  else if s.busy then refuseWrite .cmdBusy v s
  else
    match decodeWord v with
    | .error .illegalOp => refuseWrite .illegalOp v s
    | .error .reservedBits => refuseWrite .reservedBits v s
    | .ok i => if i.wellFormed then answer (.write false) (accept v s) else refuseWrite .qrAlias v s

/-- A write: BAD_ACCESS before WRITE_BUSY (R302), then by the access class of the register (R54). -/
def busWrite (a : BusAccess) (s : State) : State :=
  match accessedReg a with
  | none => refuseWrite .badAccess (accessInfo a) s
  | some r =>
    match r.accessClass with
    | .ro => refuseWrite .badAccess (accessInfo a) s
    | .tag => refuseWrite .badAccess (accessInfo a) s
    | .cmd => writeCmd a.wdata s
    | .status => answer (.write false) (writeStatus a.wdata s)
    | .rw => answer (.write false) (storeReg a.wdata s r)
    | .rwIdle =>
      if s.busy then refuseWrite .writeBusy (accessInfo a) s
      else answer (.write false) (storeReg a.wdata s r)

/-- A read: 0 on BAD_ACCESS (R82, R85), a free value for an RW-idle register or TAG while BUSY = 1 (R357), else the value. -/
def busRead (a : BusAccess) (s : State) : State :=
  match accessedReg a with
  | none => refuseRead .badAccess (accessInfo a) s
  | some r =>
    if s.busy && r.freeWhileBusy then
      answer (.read (Config.busyRead s.draws) false) { s with draws := s.draws + 1 }
    else answer (.read (readReg Config.params s r) false) s

/-- One access, complete in the transfer that presents it (R81). -/
def busAccess (a : BusAccess) (s : State) : State := if a.write then busWrite a s else busRead a s

/-- An access presented while `rst_n` = 0: a write is dropped, a read returns 0, `bus_err` = 0 (R350). -/
def ignoredAccess (a : BusAccess) (s : State) : State :=
  answer (if a.write then .write false else .read 0 false) s

end Sys2Proof.Machine
end

