-- ==== Sys2Proof/Machine/Control.lean ====
section
/-! DEFINITION. The control commands NOP and ZERO (45_control.md R280, R281). -/

namespace Sys2Proof.Machine

open Sys2Proof

/-- NOP: nothing but the completion step's own writes (R280). -/
def execNop (s : State) : Host.Outcome State Fault Refusal := .next (complete s)

/-- ZERO: every data register and PHASE to 0; IRQEN, ERRINFO, ERR and ERRCODE unchanged (R281). -/
def execZero (s : State) : Host.Outcome State Fault Refusal :=
  .next (complete
    { s with
      block := Vector.replicate 16 0
      key := Vector.replicate 8 0
      nonce := Vector.replicate 6 0
      ctr := Vector.replicate 2 0
      seed := Vector.replicate 8 0
      pctr := Vector.replicate 4 0
      authR := 0
      authS := 0
      acc := 0
      tag := 0
      ksph := 0
      pph := 0 })

end Sys2Proof.Machine
end

