-- ==== Sys2Proof/Machine/Arx.lean ====
section
/-! DEFINITION. The mixing primitive and QR (40_arx.md R150 to R152). -/

namespace Sys2Proof.Machine

open Sys2Proof

/-- Four words, the arguments or the result of MIX. -/
structure Four where
  a : Word
  b : Word
  c : Word
  d : Word
deriving DecidableEq, Repr

/-- MIX(A, B, C, D): four steps, each statement reading the values the ones before it left (R150). -/
def mix (x : Four) : Four :=
  let ⟨a, b, c, d⟩ := x
  let a := a + b; let b := b - c; let c := rotl c 11; let d := d ^^^ a
  let a := a - c; let b := rotl b 17; let c := c ^^^ d; let d := d + b
  let a := rotl a 13; let b := b ^^^ d; let c := c + a; let d := d - c
  let a := a ^^^ d; let b := b + c; let c := c - b; let d := rotl d 7
  ⟨a, b, c, d⟩

/-- (X[a], X[b], X[c], X[d]) <- MIX(X[a], X[b], X[c], X[d]) on an array of words; the indices are distinct wherever the core
applies it (R151, R170, R200). -/
def mixAt {n : Nat} (a b c d : Fin n) (x : Vector Word n) : Vector Word n :=
  let m := mix ⟨x[a], x[b], x[c], x[d]⟩
  (((x.set a m.a).set b m.b).set c m.c).set d m.d

/-- QR a, b, c, d (R151). With two equal indices it is refused with QR_ALIAS: the error is raised with its command word,
STATE is unchanged and DONE is not set (R152). The accepting write refuses such a word (R302), so none is in flight (log 13). -/
def execQr (a b c d : BitVec 4) (s : State) : Host.Outcome State Fault Refusal :=
  if indicesDistinct a b c d then
    .next (complete
      { s with block := mixAt (stateIndex a) (stateIndex b) (stateIndex c) (stateIndex d) s.block })
  else .next (raiseError .qrAlias (encode (.qr a b c d)) (retire s))

end Sys2Proof.Machine
end

