-- ==== Sys2Proof/Machine/Counter.lean ====
section
/-! DEFINITION. The counter derivations, CTRD and PCTRD (42_counter.md R190 to R202). -/

namespace Sys2Proof.Machine

open Sys2Proof

/-- NF: the Nonce followed by the signature constant F (R190). -/
def nonceF (sigF : Vector Word 2) (nonce : Vector Word 6) : Vector Word 8 := nonce ++ sigF

/-- sel_i: the word at position i mod 8 of KEY or of NF, chosen by the parity of i (R191 (d), R195). -/
def ctrSelect (c : CtrClauses) (key nf : Vector Word 8) (i : Nat) : Word :=
  let m : Fin 8 := ⟨i % 8, Nat.mod_lt _ (by decide)⟩
  if (i % 2 == 1) == c.keyOnOdd then key[m] else nf[m]

/-- A word of the accumulator. -/
def accGet (w : AccWord) (acc : Word × Word) : Word :=
  match w with
  | .a0 => acc.1
  | .a1 => acc.2

/-- A word of the accumulator replaced. -/
def accSet (w : AccWord) (v : Word) (acc : Word × Word) : Word × Word :=
  match w with
  | .a0 => (v, acc.2)
  | .a1 => (acc.1, v)

/-- The other word of the accumulator. -/
def accOther : AccWord → AccWord
  | .a0 => .a1
  | .a1 => .a0

/-- The subtraction of one word from the other (R191 (e) 1 and 5). -/
def ctrSub (c : CtrClauses) (acc : Word × Word) : Word × Word :=
  accSet c.subTarget (accGet c.subMinuend acc - accGet (accOther c.subMinuend) acc) acc

/-- One xor of an xor-swap: a word xored with the other word. -/
def ctrXorOther (acc : Word × Word) (w : AccWord) : Word × Word :=
  accSet w (accGet w acc ^^^ accGet (accOther w) acc) acc

/-- The xor-swap of a0 and a1 (R191 (e) 1 and 5): its xors, in order (log 7). -/
def ctrXorSwap (c : CtrClauses) (acc : Word × Word) : Word × Word :=
  (c.xorSwap.1 :: c.xorSwap.2).foldl ctrXorOther acc

/-- R191 (e) 1 and 5: a subtract and xor-swap of a0 and a1. -/
def ctrSubSwap (c : CtrClauses) (acc : Word × Word) : Word × Word :=
  if c.subFirst then ctrXorSwap c (ctrSub c acc) else ctrSub c (ctrXorSwap c acc)

/-- An addition of sel_i to one word (R191 (e) 2 and 4). -/
def ctrAdd (w : AccWord) (sel : Word) (acc : Word × Word) : Word × Word := accSet w (accGet w acc + sel) acc

/-- An xor of one word with sel_i (R191 (e) 4). -/
def ctrXor (w : AccWord) (sel : Word) (acc : Word × Word) : Word × Word := accSet w (accGet w acc ^^^ sel) acc

/-- R191 (e) 4: an xor and an addition with the same sel_i. -/
def ctrXorAdd (c : CtrClauses) (sel : Word) (acc : Word × Word) : Word × Word :=
  if c.xorFirst then ctrAdd c.xorAddTarget sel (ctrXor c.xorTarget sel acc)
  else ctrXor c.xorTarget sel (ctrAdd c.xorAddTarget sel acc)

/-- Iteration i on the accumulator (a0, a1): the five parts of R191 (e), in order. -/
def ctrIteration (c : CtrClauses) (key nf : Vector Word 8) (acc : Word × Word) (i : Nat) : Word × Word :=
  let sel := ctrSelect c key nf i
  let n := 7 * i % 32
  let acc := ctrAdd c.addTarget sel (ctrSubSwap c acc)
  let acc := (rotl acc.1 n, rotl acc.2 n)
  ctrSubSwap c (ctrXorAdd c sel acc)

/-- The accumulator of CTR_STEP: it starts as (KEY[0], NF[0]) and goes through iterations 1 to 15 (R191 (b), (c)). -/
def ctrAccumulator (c : CtrClauses) (key nf : Vector Word 8) : Word × Word :=
  (List.range' 1 15).foldl (ctrIteration c key nf) (key[0], nf[0])

/-- The words of CTR: the final accumulator, in the open output order (R191 (g), N3). -/
def ctrOutput (c : CtrClauses) (acc : Word × Word) : Vector Word 2 :=
  if c.outSwapped then #v[acc.2, acc.1] else #v[acc.1, acc.2]

/-- CTR_STEP (R191). -/
def ctrDerive (c : CtrClauses) (key nf : Vector Word 8) : Vector Word 2 := ctrOutput c (ctrAccumulator c key nf)

/-- The reference reading REF-A of the open clauses (R192): a member of what the parameter ranges over, not its value. -/
def refA : CtrClauses where
  keyOnOdd := true
  subMinuend := .a0
  subTarget := .a0
  xorSwap := (.a0, [.a1, .a0])
  subFirst := true
  addTarget := .a0
  xorTarget := .a0
  xorAddTarget := .a1
  xorFirst := true
  outSwapped := false

/-- CTRD under given parameters: CTR derived, KSPH cleared (R193). -/
def ctrdState (p : Params) (s : State) : State :=
  complete { s with ctr := ctrDerive p.ctr s.key (nonceF p.sigF s.nonce), ksph := 0 }

/-- CTRD (R193). -/
def execCtrd (s : State) : Host.Outcome State Fault Refusal := .next (ctrdState Config.params s)

/-- PRNG_CTR_FN: 16 applications of MIX to a 4-word vector formed from SEED and PRIME, application j at the quadruple the
pattern gives it (R200). -/
def prngDerive (c : PrngClauses) (seed : Vector Word 8) (prime : Vector Word 4) : Vector Word 4 :=
  (List.range 16).foldl (fun v j => mixAt (c.quad j 0) (c.quad j 1) (c.quad j 2) (c.quad j 3) v) (c.init seed prime)

/-- The reference reading REF-P of the open clauses (R201): V[k] = PRIME[k] ^ SEED[k] ^ SEED[k+4], and the indices rotated by
one at each application. -/
def refP : PrngClauses where
  init := fun seed prime => Vector.ofFn fun k : Fin 4 => prime[k] ^^^ seed[k.val] ^^^ seed[k.val + 4]
  quad := fun j => Equiv.addRight (Fin.ofNat 4 j)

/-- PCTRD under given parameters: PCTR derived, PPH cleared (R202). -/
def pctrdState (p : Params) (s : State) : State :=
  complete { s with pctr := prngDerive p.prng s.seed p.prime, pph := 0 }

/-- PCTRD (R202). -/
def execPctrd (s : State) : Host.Outcome State Fault Refusal := .next (pctrdState Config.params s)

end Sys2Proof.Machine
end

