-- ==== Sys2Proof/Machine/Permutation.lean ====
section
/-! DEFINITION. The block permutation, ROUND and PERM (41_permutation.md R170 to R174). -/

namespace Sys2Proof.Machine

open Sys2Proof

/-- An index quadruple of the schedule. -/
structure Group where
  a : Fin 16
  b : Fin 16
  c : Fin 16
  d : Fin 16
deriving DecidableEq, Repr

/-- The column groups G0 to G3 (R170). -/
def columnGroups : List Group := [⟨0, 4, 8, 12⟩, ⟨1, 5, 9, 13⟩, ⟨2, 6, 10, 14⟩, ⟨3, 7, 11, 15⟩]

/-- The diagonal groups G4 to G7 (R170). -/
def diagonalGroups : List Group := [⟨0, 5, 10, 15⟩, ⟨1, 6, 11, 12⟩, ⟨2, 7, 8, 13⟩, ⟨3, 4, 9, 14⟩]

/-- MIX on one group of a 16-word array. -/
def mixGroup (x : Vector Word 16) (g : Group) : Vector Word 16 := mixAt g.a g.b g.c g.d x

/-- ROUNDF: the column groups, then the diagonal groups (R171). -/
def roundF (x : Vector Word 16) : Vector Word 16 := (columnGroups ++ diagonalGroups).foldl mixGroup x

/-- `n` iterations of ROUNDF. -/
def rounds : Nat → Vector Word 16 → Vector Word 16
  | 0, x => x
  | n + 1, x => rounds n (roundF x)

/-- PERMF: 20 iterations, no feed-forward (R172). -/
def permF (x : Vector Word 16) : Vector Word 16 := rounds 20 x

/-- ROUND (R173). -/
def execRound (s : State) : Host.Outcome State Fault Refusal :=
  .next (complete { s with block := roundF s.block })

/-- PERM (R174). -/
def execPerm (s : State) : Host.Outcome State Fault Refusal :=
  .next (complete { s with block := permF s.block })

end Sys2Proof.Machine
end

