-- ==== Sys2Proof/Machine/Keystream.lean ====
section
/-! DEFINITION. The keystream generators, KSBLK and PKSBLK (43_keystream.md R220 to R225). -/

namespace Sys2Proof.Machine

open Sys2Proof

/-- KSBLK: the block of the pre-increment counter into STATE, the word KSPH names incremented modulo 2^32 with no carry, KSPH
flipped (R221, R222). -/
def execKsblk (s : State) : Host.Outcome State Fault Refusal :=
  .next (complete
    { s with
      block := permF (loadC s)
      ctr := s.ctr.set s.ksph (s.ctr[s.ksph] + 1)
      ksph := 1 - s.ksph })

/-- PKSBLK under given parameters: the PRNG block into STATE, the word PPH names incremented modulo 2^32 with no carry, PPH
advanced modulo 4 (R224, R225). -/
def pksblkState (p : Params) (s : State) : State :=
  complete
    { s with
      block := permF (loadP p s)
      pctr := s.pctr.set s.pph (s.pctr[s.pph] + 1)
      pph := s.pph + 1 }

/-- PKSBLK (R224). -/
def execPksblk (s : State) : Host.Outcome State Fault Refusal := .next (pksblkState Config.params s)

end Sys2Proof.Machine
end

