-- ==== Sys2Proof/Machine/Poly1305.lean ====
section
/-! DEFINITION. The Poly1305-style accumulator, PKEYGEN, PINIT, PABS and PFIN (44_poly1305.md R250 to R256). Arithmetic is
exact on naturals; `r` is not clamped (R253). -/

namespace Sys2Proof.Machine

open Sys2Proof

/-- The modulus p = 2^130 - 5 (R250). -/
def polyP : Nat := 2 ^ 130 - 5

/-- The 32 bytes of the first eight words of a block (R251). -/
def keyBytes (x : Vector Word 16) : List Byte := wordBytes (x.toList.take 8)

/-- PKEYGEN under given parameters: the block KSBLK would compute into STATE, its first 16 bytes into R, the next 16 into S;
CTR, PHASE, ACC and TAG unchanged (R251, R252). -/
def pkeygenState (p : Params) (s : State) : State :=
  let x := permF (loadC s)
  complete
    { s with
      block := x
      authR := keyInt p.rsOrder ((keyBytes x).take 16)
      authS := keyInt p.rsOrder ((keyBytes x).drop 16) }

/-- PKEYGEN (R251). -/
def execPkeygen (s : State) : Host.Outcome State Fault Refusal := .next (pkeygenState Config.params s)

/-- PINIT (R254). -/
def execPinit (s : State) : Host.Outcome State Fault Refusal := .next (complete { s with acc := 0 })

/-- PABS w: ACC <- ((ACC + w) R) mod p (R255). -/
def execPabs (w : BitVec 16) (s : State) : Host.Outcome State Fault Refusal :=
  .next (complete
    { s with acc := BitVec.ofNat 130 ((s.acc.toNat + messageWord w) * s.authR.toNat % polyP) })

/-- PFIN: ACC <- (ACC + S) mod p, then TAG <- ACC mod 2^128 (R256). -/
def execPfin (s : State) : Host.Outcome State Fault Refusal :=
  let acc := (s.acc.toNat + s.authS.toNat) % polyP
  .next (complete { s with acc := BitVec.ofNat 130 acc, tag := BitVec.ofNat 128 acc })

end Sys2Proof.Machine
end

