-- ==== Sys2Proof/Machine/Dispatch.lean ====
section
/-! DEFINITION. The completion of a command (60_exceptions.md R300): one arm per command, each calling its meaning. -/

namespace Sys2Proof.Machine

open Sys2Proof

def exec (i : Instr) (s : State) : Host.Outcome State Fault Refusal :=
  match i with
  | .nop => Sys2Proof.Machine.execNop s
  | .qr a b c d => Sys2Proof.Machine.execQr a b c d s
  | .round => Sys2Proof.Machine.execRound s
  | .perm => Sys2Proof.Machine.execPerm s
  | .zero => Sys2Proof.Machine.execZero s
  | .ctrd => Sys2Proof.Machine.execCtrd s
  | .pctrd => Sys2Proof.Machine.execPctrd s
  | .ksblk => Sys2Proof.Machine.execKsblk s
  | .pksblk => Sys2Proof.Machine.execPksblk s
  | .pkeygen => Sys2Proof.Machine.execPkeygen s
  | .pinit => Sys2Proof.Machine.execPinit s
  | .pabs w => Sys2Proof.Machine.execPabs w s
  | .pfin => Sys2Proof.Machine.execPfin s

end Sys2Proof.Machine
end

