-- ==== Sys2Proof/Machine/Sequencer.lean ====
section
/-! DEFINITION. One clock cycle: the host's access, then the sequencer (00_scope.md R19, 60_exceptions.md R300,
70_reset_and_hazards.md R350, R361). -/

namespace Sys2Proof.Machine

open Sys2Proof

/-- The completion step: the command in the latch is performed (R300). -/
def runLatched (s : State) : Host.Outcome State Fault Refusal :=
  match fetchLatched s with
  | .ok i => exec i s
  | .error f => .fault f

/-- A cycle of the latency passes. -/
def countDown (s : State) : State := { s with latch := s.latch.map fun l => ⟨l.word, l.wait - 1⟩ }

/-- Whether the command in flight has no cycle left to wait for. -/
def latencyOver (s : State) : Bool := s.latch.all fun l => l.wait == 0

/-- The access of a cycle, if the host presents one. -/
def presentAccess (access : Option BusAccess) (s : State) : State :=
  match access with
  | none => s
  | some a => busAccess a s

/-- One clock cycle. With `rst_n` = 0 the access is ignored and every register is reset (R350). Else the access is served,
and then, if a command was in flight when the cycle began, the sequencer completes it or one cycle of its latency passes. The
completion comes after the access, so it wins over a write that clears DONE in the same cycle (R35; log 11), and a command
accepted in this cycle does not complete in it (LAT ≥ 1, R361). -/
def clockCycle (c : BusCycle) (s : State) : Host.Outcome State Fault Refusal :=
  if c.rstN then
    if s.busy then
      if latencyOver s then runLatched (presentAccess c.access s)
      else .next (countDown (presentAccess c.access s))
    else .next (presentAccess c.access s)
  else
    match c.access with
    | none => .next (resetRegisters s)
    | some a => .next (ignoredAccess a (resetRegisters s))

/-- A cycle in which the host presents nothing. -/
def idleCycle : BusCycle := { rstN := true, access := none }

/-- The cycle the host drives next: an idle one when it has nothing more to present (log 19). -/
def nextCycle (s : State) : BusCycle := s.env.headD idleCycle

/-- The state once its next cycle has been taken from `env`. -/
def takeCycle (s : State) : State := { s with env := s.env.tail }

end Sys2Proof.Machine
end

