-- ==== Sys2Proof/Machine/Step.lean ====
section
/-! DEFINITION. One step of the machine: one rising edge of `clk`. -/

namespace Sys2Proof.Machine

open Sys2Proof

/-- One step: the next clock cycle the host drives. -/
def step (s : State) : Host.Outcome State Fault Refusal := clockCycle (nextCycle s) (takeCycle s)

/-- The state with the command word in the latch and its completion due: what an accepting write of the word to CMD and the
cycles of its latency lead to (60_exceptions.md R300; log 16). The host is idle in the coming cycle, so the next step is the
completion of that command. -/
def State.withFetchWord (s : State) (nbits w : Nat) : State :=
  { s with busy := true, latch := some ⟨BitVec.ofNat 32 (w % 2 ^ nbits), 0⟩, env := idleCycle :: s.env }

end Sys2Proof.Machine
end

