-- ==== Sys2Proof/Machine/HostProcedures.lean ====
section
/-! DEFINITION. The host's notation and procedures over the core (00_scope.md R8, R15; 20_memory.md R90; 30_encoding.md R123
to R125; 43_keystream.md R226 to R230; 44_poly1305.md R257 to R260). They are no part of the core: they drive it through
`clockCycle`, so that an observation of the host can be stated. -/

namespace Sys2Proof.Machine

open Sys2Proof

/-- A whole-word write of a register (R124 `wr`). -/
def regWrite (r : Reg) (v : Word) : BusAccess :=
  { write := true, addr := BitVec.ofNat 9 r.offset, wdata := v, be := 0xF }

/-- A whole-word read of a register (R124 `rd`). -/
def regRead (r : Reg) : BusAccess := { write := false, addr := BitVec.ofNat 9 r.offset, wdata := 0, be := 0xF }

/-- The byte offset in the window of an address of the host's address space, with the window at `VTX_BASE` (R90). -/
def windowOffset (address : Nat) : Option (BitVec 9) :=
  if Config.vtxBase ≤ address ∧ address < Config.vtxBase + 0x200 then
    some (BitVec.ofNat 9 (address - Config.vtxBase))
  else none

/-- `MemWrite(address, 4, v)`, where the address is in the window (R15, R124). -/
def memWrite (address : Nat) (v : Word) : Option BusAccess :=
  (windowOffset address).map fun off => { write := true, addr := off, wdata := v, be := 0xF }

/-- `MemRead(address, 4)`, where the address is in the window (R15, R124). -/
def memRead (address : Nat) : Option BusAccess :=
  (windowOffset address).map fun off => { write := false, addr := off, wdata := 0, be := 0xF }

/-- Issuing a command: `wr CMD, enc(command)` (R124). -/
def issue (i : Instr) : BusAccess := regWrite .cmd (encode i)

/-- `clrerr` (R125). -/
def clrErr : BusAccess := regWrite .status 0x00000004

/-- `clrdone` (R125). -/
def clrDone : BusAccess := regWrite .status 0x00000002

/-- `qr.col k` (R125). -/
def qrCol (k : Fin 4) : Instr :=
  .qr (BitVec.ofNat 4 k.val) (BitVec.ofNat 4 (k.val + 4)) (BitVec.ofNat 4 (k.val + 8)) (BitVec.ofNat 4 (k.val + 12))

/-- `qr.diag k` (R125). -/
def qrDiag : Fin 4 → Instr
  | 0 => .qr 0 5 10 15
  | 1 => .qr 1 6 11 12
  | 2 => .qr 2 7 8 13
  | 3 => .qr 3 4 9 14

/-- A 16-bit message word of two bytes (R258). -/
def wordOfBytes (order : ByteOrder) (b0 b1 : Byte) : BitVec 16 :=
  match order with
  | .little => b1 ++ b0
  | .big => b0 ++ b1

/-- `pabs.last b` for a final odd byte (R125). -/
def pabsLast (order : ByteOrder) (b : Byte) : Instr := .pabs (wordOfBytes order b 0)

/-- One clock cycle with a given access, out of reset; none if the machine stops. -/
def hostCycle (access : Option BusAccess) (s : State) : Option State :=
  match clockCycle { rstN := true, access := access } s with
  | .next t => some t
  | .fault _ => none
  | .refused _ => none

/-- `wr REG, v` (R124). -/
def wr (r : Reg) (v : Word) (s : State) : Option State := hostCycle (some (regWrite r v)) s

/-- `rd REG` (R124): the value read. -/
def rd (r : Reg) (s : State) : Option (Word × State) := do
  let t ← hostCycle (some (regRead r)) s
  match t.busAnswer with
  | some (.read v _) => some (v, t)
  | some (.write _) => none
  | none => none

/-- `n` cycles in which the host changes nothing. -/
def idleCycles : Nat → State → Option State
  | 0, s => some s
  | n + 1, s => do
    let t ← hostCycle none s
    idleCycles n t

/-- `wait` (R124): until BUSY is 0. The reads of STATUS it repeats change no register (R88), so only the cycles that pass are
modelled (log 22). -/
def waitIdle (s : State) : Option State :=
  match s.latch with
  | none => some s
  | some l => idleCycles (l.wait + 1) s

/-- `run X` (R125). -/
def run (i : Instr) (s : State) : Option State := do
  let t ← wr .cmd (encode i) s
  waitIdle t

/-- Writes of several registers, in order. -/
def writeRegs : List (Reg × Word) → State → Option State
  | [], s => some s
  | (r, v) :: rest, s => do
    let t ← wr r v s
    writeRegs rest t

/-- Reads of several registers, in order. -/
def readRegs : List Reg → State → Option (List Word × State)
  | [], s => some ([], s)
  | r :: rest, s => do
    let (v, t) ← rd r s
    let (vs, u) ← readRegs rest t
    some (v :: vs, u)

/-- The writes `wr X0..` of a multi-word register. -/
def wordWrites {n : Nat} (reg : Fin n → Reg) (ws : Vector Word n) : List (Reg × Word) :=
  (List.finRange n).map fun k => (reg k, ws[k])

/-- Word extraction (R226): the first `take` words of the block, each as its bytes. -/
def readBlockBytes (take : Nat) (s : State) : Option (List Byte × State) := do
  let (ws, t) ← readRegs (((List.finRange 16).take take).map .state) s
  some (wordBytes ws, t)

/-- `blocks` repetitions of `cmd; wait` and word extraction, for `nwords` words in all (R227, R230). -/
def blockLoop (cmd : Instr) : Nat → Nat → State → Option (List Byte × State)
  | 0, _, s => some ([], s)
  | blocks + 1, nwords, s => do
    let t ← run cmd s
    let (bytes, t) ← readBlockBytes (min 16 nwords) t
    let (rest, t) ← blockLoop cmd blocks (nwords - 16) t
    some (bytes ++ rest, t)

/-- ⌈L/4⌉ words in ⌈⌈L/4⌉/16⌉ blocks, truncated to `L` bytes (R227, R228). -/
def blockBytes (cmd : Instr) (L : Nat) (s : State) : Option (List Byte × State) := do
  let nwords := (L + 3) / 4
  let (out, t) ← blockLoop cmd ((nwords + 15) / 16) nwords s
  some (out.take L, t)

/-- KS_BYTES(K, N, C, L) (R227). -/
def ksBytes (K : Vector Word 8) (N : Vector Word 6) (C : Vector Word 2) (L : Nat) (s : State) :
    Option (List Byte × State) := do
  let t ← writeRegs (wordWrites .key K ++ wordWrites .nonce N ++ wordWrites .ctr C ++ [(.phase, 0)]) s
  blockBytes .ksblk L t

/-- Keystream application (R229): the exclusive-or byte by byte. -/
def xorBytes (m ks : List Byte) : List Byte := List.zipWith (· ^^^ ·) m ks

/-- PRNG_BYTES(Seed, L) (R230), with the seed words, `seedOfBytes` of the digest. -/
def prngBytes (seed : Vector Word 8) (L : Nat) (s : State) : Option (List Byte × State) := do
  let t ← writeRegs (wordWrites .seed seed) s
  let t ← run .pctrd t
  blockBytes .pksblk L t

/-- One zero byte appended to a message of odd length (R257 step 1). -/
def padEven (m : List Byte) : List Byte := if m.length % 2 = 1 then m ++ [0] else m

/-- The 16-bit words of a message of even length (R258). -/
def pairWords (order : ByteOrder) : List Byte → List (BitVec 16)
  | b0 :: b1 :: rest => wordOfBytes order b0 b1 :: pairWords order rest
  | [_] => []
  | [] => []

/-- The words TAG_OF absorbs (R257 steps 1 and 2). -/
def messageWords (order : ByteOrder) (m : List Byte) : List (BitVec 16) := pairWords order (padEven m)

/-- Tag serialisation (R259): byte 0 is TAG[127:120] under BIG, TAG[7:0] under LITTLE. -/
def tagBytes (order : ByteOrder) (tag : BitVec 128) : List Byte :=
  (List.range 16).map fun j =>
    match order with
    | .big => tag.extractLsb' (8 * (15 - j)) 8
    | .little => tag.extractLsb' (8 * j) 8

/-- `pabs w` for each word, in order, each followed by `wait` (R257 step 3). -/
def absorb : List (BitVec 16) → State → Option State
  | [], s => some s
  | w :: rest, s => do
    let t ← run (.pabs w) s
    absorb rest t

/-- TAG0..TAG3 as one integer, read word by word. -/
def readTag (s : State) : Option (BitVec 128 × State) := do
  let (w0, t) ← rd (.tag 0) s
  let (w1, t) ← rd (.tag 1) t
  let (w2, t) ← rd (.tag 2) t
  let (w3, t) ← rd (.tag 3) t
  some (w3 ++ w2 ++ w1 ++ w0, t)

/-- TAG_OF(M) (R257 to R259); R and S are set beforehand. -/
def tagOf (msgOrder tagOrder : ByteOrder) (m : List Byte) (s : State) : Option (List Byte × State) := do
  let t ← run .pinit s
  let t ← absorb (messageWords msgOrder m) t
  let t ← run .pfin t
  let (tag, t) ← readTag t
  some (tagBytes tagOrder tag, t)

/-- The host-side parameters of R10. -/
structure HostParams where
  msgOrder : ByteOrder
  tagOrder : ByteOrder
  ctrSource : AuthCtrSource

/-- The host-side parameters as the platform's software has them. -/
def hostParams : HostParams :=
  { msgOrder := Config.msgWordOrder, tagOrder := Config.tagByteOrder, ctrSource := Config.authCtrSource }

/-- R260 encrypt steps 1 and 2, and decrypt step 3: the counter derived, and the message with the keystream applied. -/
def aeadXor (m : List Byte) (K : Vector Word 8) (N : Vector Word 6) (s : State) :
    Option (List Byte × Vector Word 2 × State) := do
  let t ← writeRegs (wordWrites .key K ++ wordWrites .nonce N) s
  let t ← run .ctrd t
  let (c0, t) ← rd (.ctr 0) t
  let (c1, t) ← rd (.ctr 1) t
  let (ks, t) ← ksBytes K N #v[c0, c1] m.length t
  some (xorBytes m ks, #v[c0, c1], t)

/-- R260 encrypt steps 3 to 5: the tag of the plaintext, the one-time key derived from the counter `AUTH_CTR_SOURCE` names. -/
def aeadTag (h : HostParams) (plain : List Byte) (C0 : Vector Word 2) (s : State) : Option (List Byte × State) := do
  let t ← match h.ctrSource with
    | .initial => writeRegs (wordWrites .ctr C0) s
    | .advanced => some s
  let t ← run .pkeygen t
  tagOf h.msgOrder h.tagOrder plain t

/-- `encrypt(P, K)` with nonce N (R260): N, the ciphertext, the tag. K and N are words, `keyOfBytes` and `nonceOfBytes` of
their bytes. -/
def encrypt (h : HostParams) (plain : List Byte) (K : Vector Word 8) (N : Vector Word 6) (s : State) :
    Option (List Byte × State) := do
  let (ct, C0, t) ← aeadXor plain K N s
  let (tag, t) ← aeadTag h plain C0 t
  some (wordBytes N.toList ++ ct ++ tag, t)

/-- What `decrypt` answers (R260, R322). -/
inductive Decrypted where
  | plaintext (m : List Byte)
  | invalidEnvelopeLength
  | verificationFailed
deriving DecidableEq, Repr

/-- `decrypt(E, K)` (R260): the Nonce is the first 24 bytes of the envelope (R45). -/
def decrypt (h : HostParams) (E : List Byte) (K : Vector Word 8) (s : State) : Option Decrypted :=
  if E.length < 40 then some .invalidEnvelopeLength
  else do
    let ct := (E.drop 24).take (E.length - 40)
    let (plain, C0, t) ← aeadXor ct K (nonceOfBytes (E.take 24)) s
    let (tag, _) ← aeadTag h plain C0 t
    some (if tag = E.drop (E.length - 16) then .plaintext plain else .verificationFailed)

end Sys2Proof.Machine
end

