-- ==== Sys2Proof/Safety.lean ====
section
/-! DEFINITION. What holds in every state the core can be in, and what a safe run is. -/

namespace Sys2Proof.Safety

open Sys2Proof Sys2Proof.Machine

/-- The command in the latch is one an accepting write could have put there (60_exceptions.md R300, R302). -/
def latchedOk (s : State) : Bool :=
  match s.latch with
  | none => true
  | some l =>
    match decodeWord l.word with
    | .ok i => i.wellFormed
    | .error _ => false

/-- The invariant of the core: a command is in flight exactly when BUSY = 1 (R34), it is one a write to CMD can start (R300),
ERRCODE is 0 exactly when ERR is 0 (R37), and ERRINFO is 0 while ERR is 0 (R36, R40). -/
abbrev Inv (s : State) : Prop :=
  s.busy = s.latch.isSome ∧ latchedOk s = true ∧ (s.errcode = .none ↔ s.err = false) ∧
    (s.err = false → s.errinfo = 0)

/-- The core is idle and accepts commands: BUSY = 0 and ERR = 0 (R302). -/
abbrev Ready (s : State) : Prop := s.busy = false ∧ s.err = false ∧ s.latch = none

/-- `n` steps, stopping at the first fault or refusal. -/
def steps : Nat → State → Host.Outcome State Fault Refusal
  | 0, s => .next s
  | n + 1, s =>
    match step s with
    | .next t => steps n t
    | .fault f => .fault f
    | .refused r => .refused r

/-- A run of `n` steps is safe when the machine goes on through all of them. -/
def SafeRun (n : Nat) (s : State) : Prop := ∃ t, steps n s = .next t

/-- The completion steps of a list of commands, one after another. -/
def execAll : List Instr → State → Host.Outcome State Fault Refusal
  | [], s => .next s
  | i :: rest, s =>
    match exec i s with
    | .next t => execAll rest t
    | .fault f => .fault f
    | .refused r => .refused r

/-- Two states agree on the data registers and PHASE: all that a command reads or writes but for STATUS and the latch. -/
abbrev SameData (s t : State) : Prop :=
  s.block = t.block ∧ s.key = t.key ∧ s.nonce = t.nonce ∧ s.ctr = t.ctr ∧ s.seed = t.seed ∧ s.pctr = t.pctr ∧
    s.authR = t.authR ∧ s.authS = t.authS ∧ s.acc = t.acc ∧ s.tag = t.tag ∧ s.ksph = t.ksph ∧ s.pph = t.pph

/-- The bits of a register that a write stores; the others are reserved, read 0 and ignore writes (10_state.md R53). -/
def writableBits : Reg → Word
  | .irqen => 0x00000003
  | .phase => 0x00000007
  | .acc 4 => 0x00000003
  | _ => 0xFFFFFFFF

/-- The unmapped byte offsets of the window: the reserved gaps of 10_state.md R30. -/
def unmapped (off : Nat) : Bool :=
  (0x030 ≤ off && off ≤ 0x03F) || (0x0F0 ≤ off && off ≤ 0x0FF) || (0x134 ≤ off && off ≤ 0x13F) ||
    (0x150 ≤ off && off ≤ 0x1FF)

/-- The byte offsets of the read-only registers ID, ERRINFO, SIGF, PRIME and TAG (20_memory.md R86). -/
def readOnly (off : Nat) : Bool :=
  off = 0x000 || off = 0x014 || (0x018 ≤ off && off ≤ 0x01F) || (0x020 ≤ off && off ≤ 0x02F) ||
    (0x140 ≤ off && off ≤ 0x14F)

/-- The state after `raise Error(code, info)` (60_exceptions.md R303), with the access answered. -/
def afterError (code : ErrCode) (info : Word) (a : BusAnswer) (s : State) : State :=
  { s with
    err := true
    errcode := if s.err then s.errcode else code
    errinfo := if s.err then s.errinfo else info
    busAnswer := some a }

/-- `y` is the accumulator `x` after one word is subtracted from the other, with the operands that the open clauses name
(42_counter.md R191 (e) 1 and 5; log 7). -/
def Subtracted (c : CtrClauses) (x y : Word × Word) : Prop :=
  ∃ d : Word, d = (if c.subMinuend = .a0 then x.1 - x.2 else x.2 - x.1) ∧
    y = if c.subTarget = .a0 then (d, x.2) else (x.1, d)

/-- `y` is the accumulator `x` after the listed xors, each of the named word with the other word. -/
def XoredInTurn : List AccWord → Word × Word → Word × Word → Prop
  | [], x, y => y = x
  | w :: rest, x, y => XoredInTurn rest (if w = .a0 then (x.1 ^^^ x.2, x.2) else (x.1, x.2 ^^^ x.1)) y

/-- `y` is the accumulator `x` after a subtract and xor-swap of its two words, with the operands, the xors and the order that
the open clauses name (42_counter.md R191 (e) 1 and 5; log 7). -/
def SubtractedAndXorSwapped (c : CtrClauses) (x y : Word × Word) : Prop :=
  ∃ z : Word × Word,
    if c.subFirst then Subtracted c x z ∧ XoredInTurn (c.xorSwap.1 :: c.xorSwap.2) z y
    else XoredInTurn (c.xorSwap.1 :: c.xorSwap.2) x z ∧ Subtracted c z y

/-- No coming cycle asserts reset. -/
abbrev NoReset (s : State) : Prop := ∀ c ∈ s.env, c.rstN = true

end Sys2Proof.Safety
end

