-- ==== Sys2Proof/Certificates/Slice0/Obligations.lean ====
section
/-! DEFINITION. The statements about the model, each citing the rules of spec/ it rests on. -/

open Sys2Proof Sys2Proof.Machine Sys2Proof.Safety

/-! Encoding (30_encoding.md, 10_state.md R30) -/

/-- Decoding the command word of a command gives the command back, with every operand at every value (R112 to R116, R123). -/
def Obligations.DecodeOfEncodeIsTheCommand : Prop := ∀ i : Instr, decodeWord (encode i) = .ok i

/-- A word that decodes to a command is that command's word: no two words decode to one command, and no bit is dropped. -/
def Obligations.EncodeOfDecodeIsTheWord : Prop := ∀ (w : Word) (i : Instr), decodeWord w = .ok i → encode i = w

/-- R119: every word is exactly one of three things. It is a command exactly when it matches a row of the opcode map (R116),
and then exactly one row; it is ILLEGAL_OP exactly when no row has its OP, and RESERVED_BITS exactly when a row has its OP and
no row matches. Only QR has a further refusal by value. -/
def Obligations.EveryWordIsCommandIllegalOrReserved : Prop :=
  ∀ w : Word,
    ((∃ i, decodeWord w = .ok i) ↔ ∃ r ∈ opcodeRows, r.matchesWord w = true) ∧
    (∀ r ∈ opcodeRows, ∀ q ∈ opcodeRows, r.matchesWord w = true → q.matchesWord w = true → r = q) ∧
    (decodeWord w = .error .illegalOp ↔ ∀ r ∈ opcodeRows, opField w ≠ opField r.pattern) ∧
    (decodeWord w = .error .reservedBits ↔
      (∃ r ∈ opcodeRows, opField w = opField r.pattern) ∧ ∀ r ∈ opcodeRows, r.matchesWord w = false) ∧
    ∀ i, decodeWord w = .ok i → i.wellFormed = false → ∃ a b c d, i = .qr a b c d

/-- Words written out from the encodings of R112 to R114, with the commands they stand for (95_test_vectors.md V-ENC). -/
def Obligations.SpecWordsDecodeToTheirCommands : Prop :=
  decodeWord 0x00000000 = .ok .nop ∧ decodeWord 0x00321001 = .ok (.qr 0 1 2 3) ∧
    decodeWord 0x00CDEF01 = .ok (.qr 15 14 13 12) ∧ decodeWord 0x00000002 = .ok .round ∧
    decodeWord 0x00000010 = .ok .ctrd ∧ decodeWord 0x00000021 = .ok .pksblk ∧
    decodeWord 0x62610032 = .ok (.pabs 0x6261) ∧ decodeWord 0x80000004 = .error .illegalOp ∧
    decodeWord 0x01210001 = .error .reservedBits

/-- R30: the register map is the table of R30, and one to one. Word k of each register sits at the base of its row plus 4k;
each register is found at its own offset in the window, and an offset that holds a register holds the one whose offset it is;
the offsets that hold none are the misaligned ones and the reserved gaps. -/
def Obligations.RegisterMapIsOneToOne : Prop :=
  Reg.id.offset = 0x000 ∧ Reg.cmd.offset = 0x004 ∧ Reg.status.offset = 0x008 ∧ Reg.irqen.offset = 0x00C ∧
    Reg.phase.offset = 0x010 ∧ Reg.errinfo.offset = 0x014 ∧
    (∀ k : Fin 2, (Reg.sigf k).offset = 0x018 + 4 * k.val) ∧ (∀ k : Fin 4, (Reg.prime k).offset = 0x020 + 4 * k.val) ∧
    (∀ k : Fin 16, (Reg.state k).offset = 0x040 + 4 * k.val) ∧ (∀ k : Fin 8, (Reg.key k).offset = 0x080 + 4 * k.val) ∧
    (∀ k : Fin 6, (Reg.nonce k).offset = 0x0A0 + 4 * k.val) ∧ (∀ k : Fin 2, (Reg.ctr k).offset = 0x0B8 + 4 * k.val) ∧
    (∀ k : Fin 8, (Reg.seed k).offset = 0x0C0 + 4 * k.val) ∧ (∀ k : Fin 4, (Reg.pctr k).offset = 0x0E0 + 4 * k.val) ∧
    (∀ k : Fin 4, (Reg.r k).offset = 0x100 + 4 * k.val) ∧ (∀ k : Fin 4, (Reg.s k).offset = 0x110 + 4 * k.val) ∧
    (∀ k : Fin 5, (Reg.acc k).offset = 0x120 + 4 * k.val) ∧ (∀ k : Fin 4, (Reg.tag k).offset = 0x140 + 4 * k.val) ∧
  (∀ r : Reg, r.offset < 0x200 ∧ regAt r.offset = some r) ∧
    (∀ (off : Nat) (r : Reg), regAt off = some r → r.offset = off) ∧
    ∀ off : Nat, off < 0x200 → (regAt off = none ↔ off % 4 ≠ 0 ∨ unmapped off = true)

/-! Register accesses (20_memory.md R82 to R88, 10_state.md R31 to R54) -/

/-- R82, R85, R86: a misaligned or partial access, an access to a reserved gap, and a write to a read-only register are
BAD_ACCESS with the byte offset: a write is dropped, a read returns 0, `bus_err` is 1, and nothing but the error record changes.
That this holds also of a partial write at CMD while BUSY = 1 or ERR = 1, before the checks of a CMD write, is the model's
reading, as R82 and R302 leave it open between them (log 12). -/
def Obligations.BadAccessIsRecordedAndDropped : Prop :=
  ∀ (s : State) (a : BusAccess),
    (a.addr.toNat % 4 ≠ 0 ∨ a.be ≠ 0xF ∨ unmapped a.addr.toNat = true ∨
      (a.write = true ∧ readOnly a.addr.toNat = true)) →
    busAccess a s =
      afterError .badAccess (BitVec.ofNat 32 a.addr.toNat) (if a.write then .write true else .read 0 true) s

/-- R38, R39, R43 to R51, R53, R54: a write to IRQEN at any time, or to an RW-idle register while BUSY = 0, stores the writable
bits of the value in that register, which reads back with its reserved bits 0; every other register and the command latch keep
their values, also while ERR = 1. -/
def Obligations.WrittenRegisterReadsBackAlone : Prop :=
  ∀ (s : State) (r : Reg) (v : Word) (p : Params),
    (r.accessClass = .rw ∨ (r.accessClass = .rwIdle ∧ s.busy = false)) →
    (busAccess (regWrite r v) s).busAnswer = some (.write false) ∧
      readReg p (busAccess (regWrite r v) s) r = v &&& writableBits r ∧
      (∀ q : Reg, q ≠ r → readReg p (busAccess (regWrite r v) s) q = readReg p s q) ∧
      (busAccess (regWrite r v) s).latch = s.latch ∧ (busAccess (regWrite r v) s).draws = s.draws

/-- R54, R88: a read of a mapped register that is not refused and not free answers the register's value with `bus_err` 0 and
leaves all state unchanged: every register while BUSY = 0, and ID, CMD, STATUS, IRQEN, ERRINFO, SIGF and PRIME at any time. -/
def Obligations.LegalReadAnswersTheRegisterAndChangesNothing : Prop :=
  ∀ (s : State) (r : Reg),
    (s.busy = false ∨ r.accessClass = .ro ∨ r.accessClass = .cmd ∨ r.accessClass = .status ∨ r.accessClass = .rw) →
    busAccess (regRead r) s = { s with busAnswer := some (.read (readReg Config.params s r) false) }

/-- R87: a read of CMD returns 0 with `bus_err` = 0 and has no effect. -/
def Obligations.ReadOfCmdReturnsZero : Prop :=
  ∀ s : State, busAccess (regRead .cmd) s = { s with busAnswer := some (.read 0 false) }

/-- R357: a read of an RW-idle register or of TAG while BUSY = 1 returns a free value, fresh at each read, and raises no
error; the other registers answer their values. The counter of draws is the model's own (log 4). -/
def Obligations.ReadWhileBusyIsAFreeValue : Prop :=
  ∀ (s : State) (r : Reg), s.busy = true →
    ((r.accessClass = .rwIdle ∨ r.accessClass = .tag) →
      busAccess (regRead r) s =
        { s with busAnswer := some (.read (Config.busyRead s.draws) false), draws := s.draws + 1 }) ∧
    (r.accessClass ≠ .rwIdle → r.accessClass ≠ .tag →
      busAccess (regRead r) s = { s with busAnswer := some (.read (readReg Config.params s r) false) })

/-- R33, R37: the fields of STATUS as read, bit by bit, with the numbers of the error codes in bits 7:4 and the reserved bits
0. -/
def Obligations.StatusReadsItsFields : Prop :=
  ∀ (s : State) (p : Params),
    (readReg p s .status).getLsbD 0 = s.busy ∧ (readReg p s .status).getLsbD 1 = s.done ∧
      (readReg p s .status).getLsbD 2 = s.err ∧ (readReg p s .status).getLsbD 3 = false ∧
      (readReg p s .status).extractLsb' 4 4 =
        (match s.errcode with
        | .none => 0
        | .illegalOp => 1
        | .reservedBits => 2
        | .qrAlias => 3
        | .cmdBusy => 4
        | .writeBusy => 5
        | .badAccess => 6) ∧
      ∀ j, 8 ≤ j → (readReg p s .status).getLsbD j = false

/-- R33, R35, R36, R307: a write to STATUS is allowed at any time and raises no error; bit 1 clears DONE, bit 2 clears ERR,
ERRCODE and ERRINFO, and nothing else happens. -/
def Obligations.StatusWriteClearsDoneAndError : Prop :=
  ∀ (s : State) (v : Word),
    busAccess (regWrite .status v) s =
      { s with
        done := s.done && !v.getLsbD 1
        err := s.err && !v.getLsbD 2
        errcode := if v.getLsbD 2 then .none else s.errcode
        errinfo := if v.getLsbD 2 then 0 else s.errinfo
        busAnswer := some (.write false) }

/-! Issuing commands and errors (60_exceptions.md R300 to R308) -/

/-- R120: what a whole-word write to CMD does, in the order of its checks, the opcode map read as R116's rows. A refused
command latches nothing; an accepted one is latched with some latency (R361), and BUSY is set. -/
def Obligations.CommandWriteFollowsThePriorityOrder : Prop :=
  ∀ (s : State) (v : Word), ∃ wait draws : Nat,
    busAccess (regWrite .cmd v) s =
      if s.err then { s with busAnswer := some (.write true) }
      else if s.busy then afterError .cmdBusy v (.write true) s
      else if opcodeRows.all fun r => opField v != opField r.pattern then afterError .illegalOp v (.write false) s
      else if opcodeRows.all fun r => !r.matchesWord v then afterError .reservedBits v (.write false) s
      else if opField v == 0x01 &&
          !indicesDistinct (v.extractLsb' 8 4) (v.extractLsb' 12 4) (v.extractLsb' 16 4) (v.extractLsb' 20 4) then
        afterError .qrAlias v (.write false) s
      else
        { s with
          busy := true
          latch := some ⟨v, wait⟩
          draws := draws
          busAnswer := some (.write false) }

/-- R300 accept: issuing a well-formed command to a core that is idle with ERR = 0 latches its word and sets BUSY, and nothing
else of the core changes. That the latency is draw number `draws` is the model's own (log 3). -/
def Obligations.ReadyCoreAcceptsEveryWellFormedCommand : Prop :=
  ∀ (s : State) (i : Instr), s.busy = false → s.err = false → i.wellFormed = true →
    busAccess (issue i) s =
      { s with
        busy := true
        latch := some ⟨encode i, Config.latency i.opcode s.draws⟩
        draws := s.draws + 1
        busAnswer := some (.write false) }

/-- R356: a write to an RW-idle register while BUSY = 1 is refused with WRITE_BUSY and the offset: the register, the command
in flight and everything but the error record are unchanged. Writes to IRQEN and STATUS are performed. -/
def Obligations.WriteWhileBusyIsRefused : Prop :=
  ∀ (s : State) (v : Word), s.busy = true →
    (∀ r : Reg, r.accessClass = .rwIdle →
      busAccess (regWrite r v) s = afterError .writeBusy (BitVec.ofNat 32 r.offset) (.write true) s) ∧
    busAccess (regWrite .irqen v) s =
      { s with doneIe := v.getLsbD 0, errIe := v.getLsbD 1, busAnswer := some (.write false) } ∧
    busAccess (regWrite .status v) s =
      { s with
        done := s.done && !v.getLsbD 1
        err := s.err && !v.getLsbD 2
        errcode := if v.getLsbD 2 then .none else s.errcode
        errinfo := if v.getLsbD 2 then 0 else s.errinfo
        busAnswer := some (.write false) }

/-- R93, R356: no access while BUSY = 1 changes a data register, PHASE, BUSY or the command latch, so the command in flight
completes on its inputs as they stood at its accepting write. -/
def Obligations.AccessWhileBusyLeavesTheCommandItsInputs : Prop :=
  ∀ (s : State) (a : BusAccess), s.busy = true →
    SameData (busAccess a s) s ∧ (busAccess a s).busy = true ∧ (busAccess a s).latch = s.latch

/-- R305, R303: an access that raises an error records a code, and in ERRINFO the refused command word for codes 1 to 4 or
the offset of the access for codes 5 and 6; BUSY, DONE, IRQEN, PHASE, every data register and the command latch keep their
values. -/
def Obligations.ErrorChangesOnlyTheErrorRecord : Prop :=
  ∀ (s : State) (a : BusAccess), s.err = false → (busAccess a s).err = true →
    SameData (busAccess a s) s ∧ (busAccess a s).busy = s.busy ∧ (busAccess a s).done = s.done ∧
      (busAccess a s).doneIe = s.doneIe ∧ (busAccess a s).errIe = s.errIe ∧ (busAccess a s).latch = s.latch ∧
      (busAccess a s).errcode ≠ .none ∧
      (busAccess a s).errinfo =
        if (busAccess a s).errcode = .writeBusy ∨ (busAccess a s).errcode = .badAccess then
          BitVec.ofNat 32 a.addr.toNat
        else a.wdata

/-- R303, R304, R308: while ERR = 1 no access but a write to STATUS changes ERR, ERRCODE or ERRINFO, and none starts a command. -/
def Obligations.FirstErrorIsKeptUntilCleared : Prop :=
  ∀ (s : State) (a : BusAccess), s.err = true →
    (a.write = true → accessedReg a ≠ some .status) →
    (busAccess a s).err = true ∧ (busAccess a s).errcode = s.errcode ∧ (busAccess a s).errinfo = s.errinfo ∧
      (busAccess a s).busy = s.busy ∧ (busAccess a s).latch = s.latch

/-- R311: the interrupt line in the words the host reads: STATUS bit 1 with IRQEN bit 0, or STATUS bit 2 with IRQEN bit 1; it
is 0 after reset. -/
def Obligations.InterruptLineFollowsStatusAndIrqen : Prop :=
  ∀ (s : State) (p : Params),
    s.irq = (((readReg p s .status).getLsbD 1 && (readReg p s .irqen).getLsbD 0) ||
      ((readReg p s .status).getLsbD 2 && (readReg p s .irqen).getLsbD 1)) ∧
    State.reset.irq = false

/-! Reset (10_state.md R59, 70_reset_and_hazards.md R350, R351) -/

/-- R59: what every register of the window reads after reset, with no command in flight and the interrupt line 0. -/
def Obligations.ResetValuesOfTheWindow : Prop :=
  ∀ (r : Reg) (p : Params),
    readReg p State.reset r =
      (match r with
      | .id => 0x56545831
      | .sigf k => p.sigF[k]
      | .prime k => p.prime[k]
      | _ => 0) ∧
    State.reset.latch = none ∧ State.reset.irq = false

/-- R350, R351: a cycle with `rst_n` = 0 forces every register to its reset value and abandons a command in flight; an access
presented in it is ignored, reads 0 and gets `bus_err` 0. What the host drives later and the count of draws stay (log 17). -/
def Obligations.ResetCycleForcesEveryRegister : Prop :=
  ∀ (s : State) (access : Option BusAccess) (rest : List BusCycle), s.env = ⟨false, access⟩ :: rest →
    step s = .next
      { State.reset with
        env := rest
        draws := s.draws
        busAnswer :=
          match access with
          | none => s.busAnswer
          | some a => some (if a.write then .write false else .read 0 false) }

/-! The mixing primitive and the block permutation (40_arx.md, 41_permutation.md) -/

/-- R150: the sixteen statements of MIX, each value named by its step, with BitVec's own rotation. -/
def Obligations.MixFollowsItsFourSteps : Prop :=
  ∀ A B C D A1 B1 C1 D1 A2 B2 C2 D2 A3 B3 C3 D3 A4 B4 C4 D4 : Word,
    A1 = A + B → B1 = B - C → C1 = C.rotateLeft 11 → D1 = D ^^^ A1 →
    A2 = A1 - C1 → B2 = B1.rotateLeft 17 → C2 = C1 ^^^ D1 → D2 = D1 + B2 →
    A3 = A2.rotateLeft 13 → B3 = B2 ^^^ D2 → C3 = C2 + A3 → D3 = D2 - C3 →
    A4 = A3 ^^^ D3 → B4 = B3 + C3 → C4 = C3 - B4 → D4 = D3.rotateLeft 7 →
    mix ⟨A, B, C, D⟩ = ⟨A4, B4, C4, D4⟩

/-- R153 (a), (b): MIX maps four zero words to four zero words and is a bijection. -/
def Obligations.MixIsABijectionThatFixesZero : Prop :=
  mix ⟨0, 0, 0, 0⟩ = ⟨0, 0, 0, 0⟩ ∧ Function.Bijective mix

/-- R151: QR on four distinct indices completes with MIX of the four words in their places, the other twelve words and
everything else of the core unchanged. -/
def Obligations.QrMixesFourStateWords : Prop :=
  ∀ (s : State) (a b c d : BitVec 4),
    a ≠ b → a ≠ c → a ≠ d → b ≠ c → b ≠ d → c ≠ d →
    ∃ t, exec (.qr a b c d) s = .next t ∧
      mix ⟨s.block[stateIndex a], s.block[stateIndex b], s.block[stateIndex c], s.block[stateIndex d]⟩ =
        ⟨t.block[stateIndex a], t.block[stateIndex b], t.block[stateIndex c], t.block[stateIndex d]⟩ ∧
      (∀ j : Fin 16, j ≠ stateIndex a → j ≠ stateIndex b → j ≠ stateIndex c → j ≠ stateIndex d →
        t.block[j] = s.block[j]) ∧
      t = { s with block := t.block, busy := false, done := true, latch := none }

/-- R152, as the model extends it to a state in which such a command stands in the latch, which no run reaches (log 13): QR
with two equal indices raises QR_ALIAS with its command word, leaves STATE alone and does not set DONE. -/
def Obligations.QrWithEqualIndicesRaisesQrAlias : Prop :=
  ∀ (s : State) (a b c d : BitVec 4),
    (a = b ∨ a = c ∨ a = d ∨ b = c ∨ b = d ∨ c = d) →
    exec (.qr a b c d) s = .next
      { s with
        busy := false
        latch := none
        err := true
        errcode := if s.err then s.errcode else .qrAlias
        errinfo := if s.err then s.errinfo else encode (.qr a b c d) }

/-- R171, R125: ROUND completes, and leaves the state that the eight QR commands on the column groups and then the diagonal
groups leave; nothing but STATE, BUSY, DONE and the latch changes. -/
def Obligations.RoundIsEightQrCommands : Prop :=
  ∀ s : State, ∃ t,
    exec .round s = .next t ∧
      execAll [qrCol 0, qrCol 1, qrCol 2, qrCol 3, qrDiag 0, qrDiag 1, qrDiag 2, qrDiag 3] s = .next t ∧
      t = { s with block := t.block, busy := false, done := true, latch := none }

/-- R172, R174: PERM completes, and leaves the state that twenty ROUND commands leave (no feed-forward); nothing but STATE,
BUSY, DONE and the latch changes. -/
def Obligations.PermIsTwentyRoundCommands : Prop :=
  ∀ s : State, ∃ t,
    exec .perm s = .next t ∧ execAll (List.replicate 20 .round) s = .next t ∧
      t = { s with block := t.block, busy := false, done := true, latch := none }

/-- R171: the order of the groups within each half of an iteration does not change the result. -/
def Obligations.GroupOrderWithinAHalfIsImmaterial : Prop :=
  ∀ (x : Vector Word 16) (cols diags : List Group), cols.Perm columnGroups → diags.Perm diagonalGroups →
    (cols ++ diags).foldl mixGroup x = roundF x

/-- R175 (a), (b): PERMF maps the zero block to the zero block and is a bijection. -/
def Obligations.PermIsABijectionThatFixesZero : Prop :=
  permF (Vector.replicate 16 0) = Vector.replicate 16 0 ∧ Function.Bijective permF

/-! Counter derivation (42_counter.md) -/

/-- R190, R191, R193, R195: CTRD completes. For the open clauses of CTR_STEP, whatever they are: an accumulator starts as
(KEY[0], NONCE[0]); iteration i of fifteen uses sel_i, the word at position m_i of KEY or of NONCE followed by SIG_F, chosen by
the parity of i, with R195's table of m_i and r_i. Its five parts are a subtract and xor-swap of the two words, an addition of
sel_i, a left rotation of both words by r_i, an xor and an addition with sel_i, and part 1 again. CTR gets the final accumulator,
KSPH is 0, and nothing else of the core changes but BUSY, DONE and the latch. Which operands, words and xors are left open, and
that the xor-swap is made of xors of the two words with each other, is log 7. -/
def Obligations.CtrdDerivesTheCounterInFifteenIterations : Prop :=
  ∀ (p : Params) (s : State), ∃ acc : Nat → Word × Word,
    acc 0 = (s.key[0], s.nonce[0]) ∧
    (∀ i : Fin 15, ∃ (m : Fin 8) (r : Nat) (sel : Word),
      [1, 2, 3, 4, 5, 6, 7, 0, 1, 2, 3, 4, 5, 6, 7][i]? = some m ∧
      [7, 14, 21, 28, 3, 10, 17, 24, 31, 6, 13, 20, 27, 2, 9][i]? = some r ∧
      sel = (if (i.val % 2 == 0) == p.ctr.keyOnOdd then s.key[m]
        else if h : m.val < 6 then s.nonce[m.val] else p.sigF[m.val - 6]) ∧
      ∃ x1 x2 x3 x4 : Word × Word,
        SubtractedAndXorSwapped p.ctr (acc i.val) x1 ∧
        x2 = (if p.ctr.addTarget = .a0 then (x1.1 + sel, x1.2) else (x1.1, x1.2 + sel)) ∧
        x3 = (x2.1.rotateLeft r, x2.2.rotateLeft r) ∧
        x4 =
          (match p.ctr.xorTarget, p.ctr.xorAddTarget with
          | .a0, .a1 => (x3.1 ^^^ sel, x3.2 + sel)
          | .a1, .a0 => (x3.1 + sel, x3.2 ^^^ sel)
          | .a0, .a0 => (if p.ctr.xorFirst then (x3.1 ^^^ sel) + sel else (x3.1 + sel) ^^^ sel, x3.2)
          | .a1, .a1 => (x3.1, if p.ctr.xorFirst then (x3.2 ^^^ sel) + sel else (x3.2 + sel) ^^^ sel)) ∧
        SubtractedAndXorSwapped p.ctr x4 (acc (i.val + 1))) ∧
    ctrdState p s =
      { s with
        ctr := if p.ctr.outSwapped then #v[(acc 15).2, (acc 15).1] else #v[(acc 15).1, (acc 15).2]
        ksph := 0, busy := false, done := true, latch := none } ∧
    exec .ctrd s = .next (ctrdState Config.params s)

/-- R194 (c) to (e), for every reading of the open clauses: when odd i selects the key word, the counter does not depend on
KEY[2], KEY[4], KEY[6] nor on the odd positions of NF; when even i does, it does not depend on KEY[1], KEY[3], KEY[5], KEY[7]
nor on NF[2], NF[4], NF[6]. -/
def Obligations.CounterIgnoresTheUnselectedWords : Prop :=
  ∀ (c : CtrClauses) (key key' nf nf' : Vector Word 8),
    key[0] = key'[0] → nf[0] = nf'[0] →
    (∀ m : Fin 8, (if c.keyOnOdd then m.val % 2 = 1 else m.val % 2 = 0) → key[m] = key'[m]) →
    (∀ m : Fin 8, (if c.keyOnOdd then m.val % 2 = 0 else m.val % 2 = 1) → nf[m] = nf'[m]) →
    ctrDerive c key nf = ctrDerive c key' nf'

/-- R200, R202: PCTRD completes. For the open clauses of PRNG_CTR_FN, whatever they are: a 4-word vector is formed from SEED
and PRIME, sixteen applications of MIX follow, application j on the four words its quadruple names; PCTR gets the vector, PPH
is 0, and nothing else of the core changes but BUSY, DONE and the latch. -/
def Obligations.PctrdDerivesTheCounterInSixteenMixes : Prop :=
  ∀ (p : Params) (s : State), ∃ V : Nat → Vector Word 4,
    V 0 = p.prng.init s.seed p.prime ∧
    (∀ j < 16, mix ⟨(V j)[p.prng.quad j 0], (V j)[p.prng.quad j 1], (V j)[p.prng.quad j 2], (V j)[p.prng.quad j 3]⟩ =
      ⟨(V (j + 1))[p.prng.quad j 0], (V (j + 1))[p.prng.quad j 1], (V (j + 1))[p.prng.quad j 2],
        (V (j + 1))[p.prng.quad j 3]⟩) ∧
    pctrdState p s = { s with pctr := V 16, pph := 0, busy := false, done := true, latch := none } ∧
    exec .pctrd s = .next (pctrdState Config.params s)

/-! Keystream (43_keystream.md) -/

/-- R220 to R222: KSBLK completes. STATE is the permutation of KEY, NONCE and the counter before the advance; the word KSPH
names is incremented modulo 2^32, the other is not; KSPH flips; nothing else of the core changes but BUSY, DONE and the latch. -/
def Obligations.KsblkMakesABlockAndAdvancesTheCounter : Prop :=
  ∀ s : State, ∃ (t : State) (x : Vector Word 16),
    exec .ksblk s = .next t ∧ t.block = permF x ∧
      (∀ j : Fin 8, x[j.val] = s.key[j]) ∧ (∀ j : Fin 6, x[8 + j.val] = s.nonce[j]) ∧
      (∀ j : Fin 2, x[14 + j.val] = s.ctr[j]) ∧
      (∀ j : Fin 2, t.ctr[j] = if j = s.ksph then s.ctr[j] + 1 else s.ctr[j]) ∧
      t.ksph.val = 1 - s.ksph.val ∧
      t = { s with block := t.block, ctr := t.ctr, ksph := t.ksph, busy := false, done := true, latch := none }

/-- R222: after n KSBLK commands from KSPH = 0 the counter is (c0 + ⌈n/2⌉, c1 + ⌊n/2⌋) modulo 2^32 and KSPH is n mod 2. -/
def Obligations.CounterAfterManyKeystreamBlocks : Prop :=
  ∀ (n : Nat) (s : State), s.ksph = 0 → ∃ t,
    execAll (List.replicate n .ksblk) s = .next t ∧
      t.ctr[0] = s.ctr[0] + BitVec.ofNat 32 ((n + 1) / 2) ∧ t.ctr[1] = s.ctr[1] + BitVec.ofNat 32 (n / 2) ∧
      t.ksph.val = n % 2 ∧ t.key = s.key ∧ t.nonce = s.nonce

/-- R223 to R225: PKSBLK completes. STATE is the permutation of PRIME, SEED and the counter before the advance; the word PPH
names is incremented modulo 2^32, the others are not; PPH advances modulo 4; nothing else of the core changes but BUSY, DONE
and the latch. -/
def Obligations.PksblkMakesABlockAndAdvancesTheCounter : Prop :=
  ∀ (p : Params) (s : State), ∃ x : Vector Word 16,
    exec .pksblk s = .next (pksblkState Config.params s) ∧ (pksblkState p s).block = permF x ∧
      (∀ j : Fin 4, x[j.val] = p.prime[j]) ∧ (∀ j : Fin 8, x[4 + j.val] = s.seed[j]) ∧
      (∀ j : Fin 4, x[12 + j.val] = s.pctr[j]) ∧
      (∀ j : Fin 4, (pksblkState p s).pctr[j] = if j = s.pph then s.pctr[j] + 1 else s.pctr[j]) ∧
      (pksblkState p s).pph.val = (s.pph.val + 1) % 4 ∧
      pksblkState p s =
        { s with
          block := (pksblkState p s).block
          pctr := (pksblkState p s).pctr
          pph := (pksblkState p s).pph
          busy := false, done := true, latch := none }

/-- R225: after n PKSBLK commands from PPH = 0 word k of the counter has advanced by ⌈(n - k)/4⌉ modulo 2^32 and PPH is
n mod 4. -/
def Obligations.CounterAfterManyPrngBlocks : Prop :=
  ∀ (n : Nat) (s : State), s.pph = 0 → ∃ t,
    execAll (List.replicate n .pksblk) s = .next t ∧
      (∀ k : Fin 4, t.pctr[k] = s.pctr[k] + BitVec.ofNat 32 ((n + 3 - k.val) / 4)) ∧
      t.pph.val = n % 4 ∧ t.seed = s.seed

/-- R224, R42: PRIME is never zero, so the PRNG block is never all zero. -/
def Obligations.PrngBlockIsNeverZero : Prop :=
  ∀ s : State, ∃ t, exec .pksblk s = .next t ∧ t.block ≠ Vector.replicate 16 0

/-! Authenticator (44_poly1305.md) -/

/-- R251, R252: PKEYGEN completes with the block KSBLK would compute and without advancing the counter. Under BIG, R and S are
the byte-swapped words 0 to 3 and 4 to 7 of the block, the first most significant; under LITTLE they are the words as they
are, the first least significant; nothing else of the core changes but BUSY, DONE and the latch. -/
def Obligations.PkeygenSplitsTheBlockIntoRAndS : Prop :=
  ∀ (p : Params) (s : State),
    exec .pkeygen s = .next (pkeygenState Config.params s) ∧
      (∃ t, exec .ksblk s = .next t ∧ t.block = (pkeygenState p s).block) ∧
      (p.rsOrder = .big → ∀ k : Fin 4,
        getWord (pkeygenState p s).authR (3 - k.val) = bswap32 (pkeygenState p s).block[k.val] ∧
        getWord (pkeygenState p s).authS (3 - k.val) = bswap32 (pkeygenState p s).block[4 + k.val]) ∧
      (p.rsOrder = .little → ∀ k : Fin 4,
        getWord (pkeygenState p s).authR k.val = (pkeygenState p s).block[k.val] ∧
        getWord (pkeygenState p s).authS k.val = (pkeygenState p s).block[4 + k.val]) ∧
      pkeygenState p s =
        { s with
          block := (pkeygenState p s).block
          authR := (pkeygenState p s).authR
          authS := (pkeygenState p s).authS
          busy := false, done := true, latch := none }

/-- R254: PINIT completes with ACC = 0; nothing else of the core changes but BUSY, DONE and the latch. -/
def Obligations.PinitClearsTheAccumulator : Prop :=
  ∀ s : State, exec .pinit s = .next { s with acc := 0, busy := false, done := true, latch := none }

/-- R255, R115, R253: PABS completes with ACC = ((ACC + w) R) mod (2^130 - 5), exact on naturals, w unsigned and R not clamped;
nothing else of the core changes but BUSY, DONE and the latch. -/
def Obligations.PabsAbsorbsAWordModuloP : Prop :=
  ∀ (s : State) (w : BitVec 16), ∃ t,
    exec (.pabs w) s = .next t ∧
      t.acc.toNat = (s.acc.toNat + w.toNat) * s.authR.toNat % (2 ^ 130 - 5) ∧
      t = { s with acc := t.acc, busy := false, done := true, latch := none }

/-- R256: PFIN completes with ACC = (ACC + S) mod (2^130 - 5) and TAG the low 128 bits of that; nothing else of the core
changes but BUSY, DONE and the latch. -/
def Obligations.PfinAddsSAndMasksTheTag : Prop :=
  ∀ s : State, ∃ t,
    exec .pfin s = .next t ∧
      t.acc.toNat = (s.acc.toNat + s.authS.toNat) % (2 ^ 130 - 5) ∧ t.tag.toNat = t.acc.toNat % 2 ^ 128 ∧
      t = { s with acc := t.acc, tag := t.tag, busy := false, done := true, latch := none }

/-- R262: after PINIT, PABS or PFIN the accumulator is below p, from any accumulator; and no command takes an accumulator
below p to one that is not. -/
def Obligations.CommandsKeepTheAccumulatorBelowP : Prop :=
  ∀ (s t : State) (i : Instr), exec i s = .next t →
    ((i = .pinit ∨ (∃ w, i = .pabs w) ∨ i = .pfin) → t.acc.toNat < 2 ^ 130 - 5) ∧
      (s.acc.toNat < 2 ^ 130 - 5 → t.acc.toNat < 2 ^ 130 - 5)

/-- R250: PINIT, PABS of each word and PFIN leave in TAG the polynomial of the words evaluated at r, plus s, modulo 2^130 - 5,
masked to 128 bits. -/
def Obligations.TagIsThePolynomialEvaluationPlusS : Prop :=
  ∀ (ws : List (BitVec 16)) (s : State), ∃ t,
    execAll ([.pinit] ++ ws.map .pabs ++ [.pfin]) s = .next t ∧
      t.tag.toNat =
        ((∑ k : Fin ws.length, ws[k].toNat * s.authR.toNat ^ (ws.length - k.val)) + s.authS.toNat) %
          (2 ^ 130 - 5) % 2 ^ 128 ∧
      t = { s with acc := t.acc, tag := t.tag, busy := false, done := true, latch := none }

/-! Control commands (45_control.md) -/

/-- R280: NOP completes; nothing changes but BUSY, DONE and the latch. -/
def Obligations.NopOnlyCompletes : Prop :=
  ∀ s : State, exec .nop s = .next { s with busy := false, done := true, latch := none }

/-- R281, R59: ZERO completes with every data register and PHASE at its reset value; IRQEN, ERRINFO, ERR and ERRCODE and the
model's own fields are unchanged. -/
def Obligations.ZeroWipesEveryDataRegister : Prop :=
  ∀ s : State, ∃ t,
    exec .zero s = .next t ∧ SameData t State.reset ∧ t.busy = false ∧ t.done = true ∧ t.latch = none ∧
      t.err = s.err ∧ t.errcode = s.errcode ∧ t.errinfo = s.errinfo ∧ t.doneIe = s.doneIe ∧ t.errIe = s.errIe ∧
      t.env = s.env ∧ t.busAnswer = s.busAnswer ∧ t.draws = s.draws

/-! The machine: steps and runs (60_exceptions.md R300, 70_reset_and_hazards.md R361) -/

/-- R300 complete: when a command in flight has no cycle left to wait and its word decodes to a well-formed command, the step
is that command's meaning on the state after the access of the cycle, if there is one, and with the cycle taken. That the
access comes first is the model's reading of R35 (log 11). -/
def Obligations.StepRunsTheLatchedCommand : Prop :=
  ∀ (s : State) (w : Word) (i : Instr), s.busy = true → s.latch = some ⟨w, 0⟩ → decodeWord w = .ok i →
    i.wellFormed = true →
    (s.env = [] → step s = exec i s) ∧
    (∀ rest, s.env = ⟨true, none⟩ :: rest → step s = exec i { s with env := rest }) ∧
    (∀ a rest, s.env = ⟨true, some a⟩ :: rest → step s = exec i (busAccess a { s with env := rest }))

/-- R34, R37, R36, R300: at reset the invariant of the core holds. -/
def Obligations.ResetSatisfiesTheInvariant : Prop := Inv State.reset

/-- R34, R37, R36, R300: every step keeps the invariant of the core, from every state that meets it and whatever the host
drives: a command is in flight exactly when BUSY = 1, it is one that may start, and the error record is empty exactly when
ERR = 0. -/
def Obligations.EveryStepKeepsTheInvariant : Prop :=
  ∀ s t : State, Inv s → step s = .next t → Inv t

/-- R300: no error can stop the core. From every state that meets the invariant, any number of steps goes on. -/
def Obligations.TheCoreNeverStops : Prop := ∀ (n : Nat) (s : State), Inv s → SafeRun n s

/-- R300, R93, R361: while no reset is asserted, a command in flight completes after the cycles of its latency with its whole
effect, on its inputs as they stand now, whatever accesses the host presents meanwhile: BUSY 0, DONE 1, the latch empty. For an
access presented in the completing cycle itself, that it is served before the completion is the model's reading (log 11). -/
def Obligations.CommandInFlightCompletesWithItsWholeEffect : Prop :=
  ∀ (s : State) (l : Latched), Inv s → NoReset s → s.latch = some l →
    ∃ (i : Instr) (u t : State),
      decodeWord l.word = .ok i ∧ exec i s = .next u ∧ steps (l.wait + 1) s = .next t ∧ SameData t u ∧
        t.busy = false ∧ t.done = true ∧ t.latch = none

/-- R35: when a completion and a write that clears DONE fall in one cycle, the completion wins and DONE reads 1 afterwards. -/
def Obligations.CompletionWinsOverAClearOfDone : Prop :=
  ∀ (s : State) (w v : Word) (rest : List BusCycle), Inv s → s.latch = some ⟨w, 0⟩ →
    s.env = ⟨true, some (regWrite .status v)⟩ :: rest →
    ∃ t, step s = .next t ∧ t.done = true ∧ t.busy = false

/-- R44, R45, R47, R52: who writes KEY, NONCE, SEED and TAG. In a step with `rst_n` = 1, and no ZERO in flight, a register
the host does not write keeps its words; TAG keeps them unless a PFIN is in flight, whatever the host writes. -/
def Obligations.KeyNonceSeedAndTagHaveNoOtherWriter : Prop :=
  ∀ s t : State, Inv s → step s = .next t → (nextCycle s).rstN = true →
    (∀ l, s.latch = some l → decodeWord l.word ≠ .ok .zero) →
    ((∀ a k, (nextCycle s).access = some a → a.write = true → accessedReg a ≠ some (.key k)) → t.key = s.key) ∧
    ((∀ a k, (nextCycle s).access = some a → a.write = true → accessedReg a ≠ some (.nonce k)) → t.nonce = s.nonce) ∧
    ((∀ a k, (nextCycle s).access = some a → a.write = true → accessedReg a ≠ some (.seed k)) → t.seed = s.seed) ∧
    ((∀ l, s.latch = some l → decodeWord l.word ≠ .ok .pfin) → t.tag = s.tag)

/-! Host procedures (43_keystream.md R226 to R230, 44_poly1305.md R257 to R261) -/

/-- R124, R125: `run X` on an idle core with ERR = 0 answers a state with X's whole effect on the data registers. -/
def Obligations.RunOfACommandHasItsEffect : Prop :=
  ∀ (s : State) (i : Instr), Ready s → i.wellFormed = true →
    ∃ t u, run i s = some t ∧ exec i s = .next u ∧ SameData t u ∧ Ready t ∧ t.done = true

/-- R222, R226, R227, R228: KS_BYTES(K, N, C, L) on an idle core with ERR = 0 answers the first L bytes of the ⌈L/64⌉ whole
blocks, block n permuted from K, N and the counter (C[0] + ⌈n/2⌉, C[1] + ⌊n/2⌋), and leaves K and N in their registers and CTR
advanced by all of the blocks. -/
def Obligations.KsBytesAreTheBlocksOfTheAdvancingCounter : Prop :=
  ∀ (K : Vector Word 8) (N : Vector Word 6) (C : Vector Word 2) (L : Nat) (s : State), Ready s →
    ∃ t, ksBytes K N C L s =
        some
          (((List.range ((L + 63) / 64)).flatMap fun n =>
              wordBytes
                (permF (K ++ N ++ #v[C[0] + BitVec.ofNat 32 ((n + 1) / 2), C[1] + BitVec.ofNat 32 (n / 2)])).toList).take
            L, t) ∧
      t.ctr = #v[C[0] + BitVec.ofNat 32 (((L + 63) / 64 + 1) / 2), C[1] + BitVec.ofNat 32 ((L + 63) / 64 / 2)] ∧
      t.ksph.val = (L + 63) / 64 % 2 ∧ t.key = K ∧ t.nonce = N ∧ Ready t

/-- R231: KSBLK, PKSBLK, KS_BYTES and PRNG_BYTES read no state but their named inputs: two states that agree on the inputs
give equal results, and the host procedures give equal bytes from any two idle states with ERR = 0. -/
def Obligations.KeystreamReadsOnlyItsInputs : Prop :=
  ∀ s s' : State,
    (s.key = s'.key → s.nonce = s'.nonce → s.ctr = s'.ctr → s.ksph = s'.ksph →
      ∃ t t', exec .ksblk s = .next t ∧ exec .ksblk s' = .next t' ∧ t.block = t'.block ∧ t.ctr = t'.ctr ∧
        t.ksph = t'.ksph) ∧
    (s.seed = s'.seed → s.pctr = s'.pctr → s.pph = s'.pph →
      ∃ t t', exec .pksblk s = .next t ∧ exec .pksblk s' = .next t' ∧ t.block = t'.block ∧ t.pctr = t'.pctr ∧
        t.pph = t'.pph) ∧
    (Ready s → Ready s' →
      (∀ K N C L, ∃ out t t', ksBytes K N C L s = some (out, t) ∧ ksBytes K N C L s' = some (out, t')) ∧
      ∀ seed L, ∃ out t t', prngBytes seed L s = some (out, t) ∧ prngBytes seed L s' = some (out, t'))

/-- R261: TAG_OF of a message of odd length equals TAG_OF of it with one zero byte appended. -/
def Obligations.TagOfOddMessageIsTagOfPaddedMessage : Prop :=
  ∀ (msgOrder tagOrder : ByteOrder) (m : List Byte) (s : State), m.length % 2 = 1 →
    tagOf msgOrder tagOrder m s = tagOf msgOrder tagOrder (m ++ [0]) s

/-- R260, R229 (S7 round trip): on an idle core with ERR = 0, `encrypt` answers an envelope of 24 + |P| + 16 bytes, and
`decrypt` of it under the same key gives the plaintext back on every idle core with ERR = 0, whatever its registers hold. The
two procedures are the host's, which R260 gives as informative and log 23 models. -/
def Obligations.DecryptUndoesEncrypt : Prop :=
  ∀ (h : HostParams) (m : List Byte) (K : Vector Word 8) (N : Vector Word 6) (s : State), Ready s →
    ∃ E t, encrypt h m K N s = some (E, t) ∧ E.length = 24 + m.length + 16 ∧
      ∀ s' : State, Ready s' → decrypt h E K s' = some (.plaintext m)

/-- R257, R258, R259: on an idle core with ERR = 0, TAG_OF(M) absorbs ⌈|M|/2⌉ words, word k of bytes 2k and 2k + 1 of M in the
order MSG_WORD_ORDER names, a missing last byte counting as 0; TAG gets the polynomial of the words evaluated at r, plus s,
modulo 2^130 - 5, masked to 128 bits (R250); and the answer is the sixteen bytes of TAG in the order TAG_BYTE_ORDER names. Of
the data registers only ACC and TAG change. -/
def Obligations.TagOfAnswersThePolynomialTag : Prop :=
  ∀ (msgOrder tagOrder : ByteOrder) (m : List Byte) (s : State), Ready s →
    ∃ (ws : List Nat) (out : List Byte) (t : State),
      tagOf msgOrder tagOrder m s = some (out, t) ∧
      ws.length = (m.length + 1) / 2 ∧
      (∀ k : Fin ws.length, ws[k] =
        match msgOrder with
        | .little => (m.getD (2 * k.val) 0).toNat + 256 * (m.getD (2 * k.val + 1) 0).toNat
        | .big => 256 * (m.getD (2 * k.val) 0).toNat + (m.getD (2 * k.val + 1) 0).toNat) ∧
      t.tag.toNat =
        ((∑ k : Fin ws.length, ws[k] * s.authR.toNat ^ (ws.length - k.val)) + s.authS.toNat) % (2 ^ 130 - 5) % 2 ^ 128 ∧
      out.length = 16 ∧
      (∀ j : Fin 16, (out.getD j.val 0).toNat =
        match tagOrder with
        | .big => t.tag.toNat / 256 ^ (15 - j.val) % 256
        | .little => t.tag.toNat / 256 ^ j.val % 256) ∧
      SameData t { s with acc := t.acc, tag := t.tag } ∧ Ready t

/-! Words, bytes and the integers they stand for (10_state.md R44 to R52, 20_memory.md R84) -/

/-- R49 to R52: R, S, ACC and TAG as integers are the sums of the words the host reads, word k counting 2^(32k); ACC4 has two
bits. -/
def Obligations.MultiWordRegistersAreTheSumsOfTheirWords : Prop :=
  ∀ (s : State) (p : Params),
    s.authR.toNat = ∑ k : Fin 4, (readReg p s (.r k)).toNat * 2 ^ (32 * k.val) ∧
      s.authS.toNat = ∑ k : Fin 4, (readReg p s (.s k)).toNat * 2 ^ (32 * k.val) ∧
      s.acc.toNat = ∑ k : Fin 5, (readReg p s (.acc k)).toNat * 2 ^ (32 * k.val) ∧
      s.tag.toNat = ∑ k : Fin 4, (readReg p s (.tag k)).toNat * 2 ^ (32 * k.val) ∧
      (readReg p s (.acc 4)).toNat < 4

/-- R84, R44, R45, R47: the bytes of the Key, of the Nonce and of the seed digest as the words of KEY, NONCE and SEED. Word k is
bytes 4k to 4k + 3, the first least significant, and the words serialise to the bytes they came from. -/
def Obligations.BytesPackIntoLittleEndianWords : Prop :=
  (∀ bs : List Byte, bs.length = 32 →
    (∀ k : Fin 8, (keyOfBytes bs)[k].toNat = ∑ j : Fin 4, (bs.getD (4 * k.val + j.val) 0).toNat * 256 ^ j.val) ∧
      (∀ k : Fin 8, (seedOfBytes bs)[k].toNat = ∑ j : Fin 4, (bs.getD (4 * k.val + j.val) 0).toNat * 256 ^ j.val) ∧
      wordBytes (keyOfBytes bs).toList = bs ∧ wordBytes (seedOfBytes bs).toList = bs) ∧
    ∀ bs : List Byte, bs.length = 24 →
      (∀ k : Fin 6, (nonceOfBytes bs)[k].toNat = ∑ j : Fin 4, (bs.getD (4 * k.val + j.val) 0).toNat * 256 ^ j.val) ∧
        wordBytes (nonceOfBytes bs).toList = bs
end

