-- ==== Sys2Proof/Laws/State.lean ====
section
/-! SUPPORT. One lemma per field of State for each named update of it, so that no proof unfolds a record update. -/

namespace Sys2Proof.Machine

open Sys2Proof

/-! `answer` -/

@[simp] theorem answer_busy (a : BusAnswer) (s : State) : (answer a s).busy = s.busy := rfl
@[simp] theorem answer_done (a : BusAnswer) (s : State) : (answer a s).done = s.done := rfl
@[simp] theorem answer_err (a : BusAnswer) (s : State) : (answer a s).err = s.err := rfl
@[simp] theorem answer_errcode (a : BusAnswer) (s : State) : (answer a s).errcode = s.errcode := rfl
@[simp] theorem answer_doneIe (a : BusAnswer) (s : State) : (answer a s).doneIe = s.doneIe := rfl
@[simp] theorem answer_errIe (a : BusAnswer) (s : State) : (answer a s).errIe = s.errIe := rfl
@[simp] theorem answer_ksph (a : BusAnswer) (s : State) : (answer a s).ksph = s.ksph := rfl
@[simp] theorem answer_pph (a : BusAnswer) (s : State) : (answer a s).pph = s.pph := rfl
@[simp] theorem answer_errinfo (a : BusAnswer) (s : State) : (answer a s).errinfo = s.errinfo := rfl
@[simp] theorem answer_block (a : BusAnswer) (s : State) : (answer a s).block = s.block := rfl
@[simp] theorem answer_key (a : BusAnswer) (s : State) : (answer a s).key = s.key := rfl
@[simp] theorem answer_nonce (a : BusAnswer) (s : State) : (answer a s).nonce = s.nonce := rfl
@[simp] theorem answer_ctr (a : BusAnswer) (s : State) : (answer a s).ctr = s.ctr := rfl
@[simp] theorem answer_seed (a : BusAnswer) (s : State) : (answer a s).seed = s.seed := rfl
@[simp] theorem answer_pctr (a : BusAnswer) (s : State) : (answer a s).pctr = s.pctr := rfl
@[simp] theorem answer_authR (a : BusAnswer) (s : State) : (answer a s).authR = s.authR := rfl
@[simp] theorem answer_authS (a : BusAnswer) (s : State) : (answer a s).authS = s.authS := rfl
@[simp] theorem answer_acc (a : BusAnswer) (s : State) : (answer a s).acc = s.acc := rfl
@[simp] theorem answer_tag (a : BusAnswer) (s : State) : (answer a s).tag = s.tag := rfl
@[simp] theorem answer_latch (a : BusAnswer) (s : State) : (answer a s).latch = s.latch := rfl
@[simp] theorem answer_env (a : BusAnswer) (s : State) : (answer a s).env = s.env := rfl
@[simp] theorem answer_busAnswer (a : BusAnswer) (s : State) : (answer a s).busAnswer = some a := rfl
@[simp] theorem answer_draws (a : BusAnswer) (s : State) : (answer a s).draws = s.draws := rfl

/-! `retire` -/

@[simp] theorem retire_busy (s : State) : (retire s).busy = false := rfl
@[simp] theorem retire_done (s : State) : (retire s).done = s.done := rfl
@[simp] theorem retire_err (s : State) : (retire s).err = s.err := rfl
@[simp] theorem retire_errcode (s : State) : (retire s).errcode = s.errcode := rfl
@[simp] theorem retire_doneIe (s : State) : (retire s).doneIe = s.doneIe := rfl
@[simp] theorem retire_errIe (s : State) : (retire s).errIe = s.errIe := rfl
@[simp] theorem retire_ksph (s : State) : (retire s).ksph = s.ksph := rfl
@[simp] theorem retire_pph (s : State) : (retire s).pph = s.pph := rfl
@[simp] theorem retire_errinfo (s : State) : (retire s).errinfo = s.errinfo := rfl
@[simp] theorem retire_block (s : State) : (retire s).block = s.block := rfl
@[simp] theorem retire_key (s : State) : (retire s).key = s.key := rfl
@[simp] theorem retire_nonce (s : State) : (retire s).nonce = s.nonce := rfl
@[simp] theorem retire_ctr (s : State) : (retire s).ctr = s.ctr := rfl
@[simp] theorem retire_seed (s : State) : (retire s).seed = s.seed := rfl
@[simp] theorem retire_pctr (s : State) : (retire s).pctr = s.pctr := rfl
@[simp] theorem retire_authR (s : State) : (retire s).authR = s.authR := rfl
@[simp] theorem retire_authS (s : State) : (retire s).authS = s.authS := rfl
@[simp] theorem retire_acc (s : State) : (retire s).acc = s.acc := rfl
@[simp] theorem retire_tag (s : State) : (retire s).tag = s.tag := rfl
@[simp] theorem retire_latch (s : State) : (retire s).latch = none := rfl
@[simp] theorem retire_env (s : State) : (retire s).env = s.env := rfl
@[simp] theorem retire_busAnswer (s : State) : (retire s).busAnswer = s.busAnswer := rfl
@[simp] theorem retire_draws (s : State) : (retire s).draws = s.draws := rfl

/-! `complete` -/

@[simp] theorem complete_busy (s : State) : (complete s).busy = false := rfl
@[simp] theorem complete_done (s : State) : (complete s).done = true := rfl
@[simp] theorem complete_err (s : State) : (complete s).err = s.err := rfl
@[simp] theorem complete_errcode (s : State) : (complete s).errcode = s.errcode := rfl
@[simp] theorem complete_doneIe (s : State) : (complete s).doneIe = s.doneIe := rfl
@[simp] theorem complete_errIe (s : State) : (complete s).errIe = s.errIe := rfl
@[simp] theorem complete_ksph (s : State) : (complete s).ksph = s.ksph := rfl
@[simp] theorem complete_pph (s : State) : (complete s).pph = s.pph := rfl
@[simp] theorem complete_errinfo (s : State) : (complete s).errinfo = s.errinfo := rfl
@[simp] theorem complete_block (s : State) : (complete s).block = s.block := rfl
@[simp] theorem complete_key (s : State) : (complete s).key = s.key := rfl
@[simp] theorem complete_nonce (s : State) : (complete s).nonce = s.nonce := rfl
@[simp] theorem complete_ctr (s : State) : (complete s).ctr = s.ctr := rfl
@[simp] theorem complete_seed (s : State) : (complete s).seed = s.seed := rfl
@[simp] theorem complete_pctr (s : State) : (complete s).pctr = s.pctr := rfl
@[simp] theorem complete_authR (s : State) : (complete s).authR = s.authR := rfl
@[simp] theorem complete_authS (s : State) : (complete s).authS = s.authS := rfl
@[simp] theorem complete_acc (s : State) : (complete s).acc = s.acc := rfl
@[simp] theorem complete_tag (s : State) : (complete s).tag = s.tag := rfl
@[simp] theorem complete_latch (s : State) : (complete s).latch = none := rfl
@[simp] theorem complete_env (s : State) : (complete s).env = s.env := rfl
@[simp] theorem complete_busAnswer (s : State) : (complete s).busAnswer = s.busAnswer := rfl
@[simp] theorem complete_draws (s : State) : (complete s).draws = s.draws := rfl

/-! `clearError` -/

@[simp] theorem clearError_busy (s : State) : (clearError s).busy = s.busy := rfl
@[simp] theorem clearError_done (s : State) : (clearError s).done = s.done := rfl
@[simp] theorem clearError_err (s : State) : (clearError s).err = false := rfl
@[simp] theorem clearError_errcode (s : State) : (clearError s).errcode = .none := rfl
@[simp] theorem clearError_doneIe (s : State) : (clearError s).doneIe = s.doneIe := rfl
@[simp] theorem clearError_errIe (s : State) : (clearError s).errIe = s.errIe := rfl
@[simp] theorem clearError_ksph (s : State) : (clearError s).ksph = s.ksph := rfl
@[simp] theorem clearError_pph (s : State) : (clearError s).pph = s.pph := rfl
@[simp] theorem clearError_errinfo (s : State) : (clearError s).errinfo = 0 := rfl
@[simp] theorem clearError_block (s : State) : (clearError s).block = s.block := rfl
@[simp] theorem clearError_key (s : State) : (clearError s).key = s.key := rfl
@[simp] theorem clearError_nonce (s : State) : (clearError s).nonce = s.nonce := rfl
@[simp] theorem clearError_ctr (s : State) : (clearError s).ctr = s.ctr := rfl
@[simp] theorem clearError_seed (s : State) : (clearError s).seed = s.seed := rfl
@[simp] theorem clearError_pctr (s : State) : (clearError s).pctr = s.pctr := rfl
@[simp] theorem clearError_authR (s : State) : (clearError s).authR = s.authR := rfl
@[simp] theorem clearError_authS (s : State) : (clearError s).authS = s.authS := rfl
@[simp] theorem clearError_acc (s : State) : (clearError s).acc = s.acc := rfl
@[simp] theorem clearError_tag (s : State) : (clearError s).tag = s.tag := rfl
@[simp] theorem clearError_latch (s : State) : (clearError s).latch = s.latch := rfl
@[simp] theorem clearError_env (s : State) : (clearError s).env = s.env := rfl
@[simp] theorem clearError_busAnswer (s : State) : (clearError s).busAnswer = s.busAnswer := rfl
@[simp] theorem clearError_draws (s : State) : (clearError s).draws = s.draws := rfl

/-! `accept` -/

@[simp] theorem accept_busy (v : Word) (s : State) : (accept v s).busy = true := rfl
@[simp] theorem accept_done (v : Word) (s : State) : (accept v s).done = s.done := rfl
@[simp] theorem accept_err (v : Word) (s : State) : (accept v s).err = s.err := rfl
@[simp] theorem accept_errcode (v : Word) (s : State) : (accept v s).errcode = s.errcode := rfl
@[simp] theorem accept_doneIe (v : Word) (s : State) : (accept v s).doneIe = s.doneIe := rfl
@[simp] theorem accept_errIe (v : Word) (s : State) : (accept v s).errIe = s.errIe := rfl
@[simp] theorem accept_ksph (v : Word) (s : State) : (accept v s).ksph = s.ksph := rfl
@[simp] theorem accept_pph (v : Word) (s : State) : (accept v s).pph = s.pph := rfl
@[simp] theorem accept_errinfo (v : Word) (s : State) : (accept v s).errinfo = s.errinfo := rfl
@[simp] theorem accept_block (v : Word) (s : State) : (accept v s).block = s.block := rfl
@[simp] theorem accept_key (v : Word) (s : State) : (accept v s).key = s.key := rfl
@[simp] theorem accept_nonce (v : Word) (s : State) : (accept v s).nonce = s.nonce := rfl
@[simp] theorem accept_ctr (v : Word) (s : State) : (accept v s).ctr = s.ctr := rfl
@[simp] theorem accept_seed (v : Word) (s : State) : (accept v s).seed = s.seed := rfl
@[simp] theorem accept_pctr (v : Word) (s : State) : (accept v s).pctr = s.pctr := rfl
@[simp] theorem accept_authR (v : Word) (s : State) : (accept v s).authR = s.authR := rfl
@[simp] theorem accept_authS (v : Word) (s : State) : (accept v s).authS = s.authS := rfl
@[simp] theorem accept_acc (v : Word) (s : State) : (accept v s).acc = s.acc := rfl
@[simp] theorem accept_tag (v : Word) (s : State) : (accept v s).tag = s.tag := rfl
@[simp] theorem accept_latch (v : Word) (s : State) : (accept v s).latch = some ⟨v, Config.latency (opField v) s.draws⟩ := rfl
@[simp] theorem accept_env (v : Word) (s : State) : (accept v s).env = s.env := rfl
@[simp] theorem accept_busAnswer (v : Word) (s : State) : (accept v s).busAnswer = s.busAnswer := rfl
@[simp] theorem accept_draws (v : Word) (s : State) : (accept v s).draws = s.draws + 1 := rfl

/-! `countDown` -/

@[simp] theorem countDown_busy (s : State) : (countDown s).busy = s.busy := rfl
@[simp] theorem countDown_done (s : State) : (countDown s).done = s.done := rfl
@[simp] theorem countDown_err (s : State) : (countDown s).err = s.err := rfl
@[simp] theorem countDown_errcode (s : State) : (countDown s).errcode = s.errcode := rfl
@[simp] theorem countDown_doneIe (s : State) : (countDown s).doneIe = s.doneIe := rfl
@[simp] theorem countDown_errIe (s : State) : (countDown s).errIe = s.errIe := rfl
@[simp] theorem countDown_ksph (s : State) : (countDown s).ksph = s.ksph := rfl
@[simp] theorem countDown_pph (s : State) : (countDown s).pph = s.pph := rfl
@[simp] theorem countDown_errinfo (s : State) : (countDown s).errinfo = s.errinfo := rfl
@[simp] theorem countDown_block (s : State) : (countDown s).block = s.block := rfl
@[simp] theorem countDown_key (s : State) : (countDown s).key = s.key := rfl
@[simp] theorem countDown_nonce (s : State) : (countDown s).nonce = s.nonce := rfl
@[simp] theorem countDown_ctr (s : State) : (countDown s).ctr = s.ctr := rfl
@[simp] theorem countDown_seed (s : State) : (countDown s).seed = s.seed := rfl
@[simp] theorem countDown_pctr (s : State) : (countDown s).pctr = s.pctr := rfl
@[simp] theorem countDown_authR (s : State) : (countDown s).authR = s.authR := rfl
@[simp] theorem countDown_authS (s : State) : (countDown s).authS = s.authS := rfl
@[simp] theorem countDown_acc (s : State) : (countDown s).acc = s.acc := rfl
@[simp] theorem countDown_tag (s : State) : (countDown s).tag = s.tag := rfl
@[simp] theorem countDown_latch (s : State) : (countDown s).latch = s.latch.map fun l => ⟨l.word, l.wait - 1⟩ := rfl
@[simp] theorem countDown_env (s : State) : (countDown s).env = s.env := rfl
@[simp] theorem countDown_busAnswer (s : State) : (countDown s).busAnswer = s.busAnswer := rfl
@[simp] theorem countDown_draws (s : State) : (countDown s).draws = s.draws := rfl

/-! `takeCycle` -/

@[simp] theorem takeCycle_busy (s : State) : (takeCycle s).busy = s.busy := rfl
@[simp] theorem takeCycle_done (s : State) : (takeCycle s).done = s.done := rfl
@[simp] theorem takeCycle_err (s : State) : (takeCycle s).err = s.err := rfl
@[simp] theorem takeCycle_errcode (s : State) : (takeCycle s).errcode = s.errcode := rfl
@[simp] theorem takeCycle_doneIe (s : State) : (takeCycle s).doneIe = s.doneIe := rfl
@[simp] theorem takeCycle_errIe (s : State) : (takeCycle s).errIe = s.errIe := rfl
@[simp] theorem takeCycle_ksph (s : State) : (takeCycle s).ksph = s.ksph := rfl
@[simp] theorem takeCycle_pph (s : State) : (takeCycle s).pph = s.pph := rfl
@[simp] theorem takeCycle_errinfo (s : State) : (takeCycle s).errinfo = s.errinfo := rfl
@[simp] theorem takeCycle_block (s : State) : (takeCycle s).block = s.block := rfl
@[simp] theorem takeCycle_key (s : State) : (takeCycle s).key = s.key := rfl
@[simp] theorem takeCycle_nonce (s : State) : (takeCycle s).nonce = s.nonce := rfl
@[simp] theorem takeCycle_ctr (s : State) : (takeCycle s).ctr = s.ctr := rfl
@[simp] theorem takeCycle_seed (s : State) : (takeCycle s).seed = s.seed := rfl
@[simp] theorem takeCycle_pctr (s : State) : (takeCycle s).pctr = s.pctr := rfl
@[simp] theorem takeCycle_authR (s : State) : (takeCycle s).authR = s.authR := rfl
@[simp] theorem takeCycle_authS (s : State) : (takeCycle s).authS = s.authS := rfl
@[simp] theorem takeCycle_acc (s : State) : (takeCycle s).acc = s.acc := rfl
@[simp] theorem takeCycle_tag (s : State) : (takeCycle s).tag = s.tag := rfl
@[simp] theorem takeCycle_latch (s : State) : (takeCycle s).latch = s.latch := rfl
@[simp] theorem takeCycle_env (s : State) : (takeCycle s).env = s.env.tail := rfl
@[simp] theorem takeCycle_busAnswer (s : State) : (takeCycle s).busAnswer = s.busAnswer := rfl
@[simp] theorem takeCycle_draws (s : State) : (takeCycle s).draws = s.draws := rfl

/-! `raiseError`: the error record, and every other field unchanged (R303) -/

@[simp] theorem raiseError_busy (code : ErrCode) (info : Word) (s : State) : (raiseError code info s).busy = s.busy := by
  cases h : s.err <;> simp [raiseError, h]
@[simp] theorem raiseError_done (code : ErrCode) (info : Word) (s : State) : (raiseError code info s).done = s.done := by
  cases h : s.err <;> simp [raiseError, h]
@[simp] theorem raiseError_err (code : ErrCode) (info : Word) (s : State) : (raiseError code info s).err = true := by
  cases h : s.err <;> simp [raiseError, h]
@[simp] theorem raiseError_errcode (code : ErrCode) (info : Word) (s : State) : (raiseError code info s).errcode = if s.err then s.errcode else code := by
  cases h : s.err <;> simp [raiseError, h]
@[simp] theorem raiseError_doneIe (code : ErrCode) (info : Word) (s : State) : (raiseError code info s).doneIe = s.doneIe := by
  cases h : s.err <;> simp [raiseError, h]
@[simp] theorem raiseError_errIe (code : ErrCode) (info : Word) (s : State) : (raiseError code info s).errIe = s.errIe := by
  cases h : s.err <;> simp [raiseError, h]
@[simp] theorem raiseError_ksph (code : ErrCode) (info : Word) (s : State) : (raiseError code info s).ksph = s.ksph := by
  cases h : s.err <;> simp [raiseError, h]
@[simp] theorem raiseError_pph (code : ErrCode) (info : Word) (s : State) : (raiseError code info s).pph = s.pph := by
  cases h : s.err <;> simp [raiseError, h]
@[simp] theorem raiseError_errinfo (code : ErrCode) (info : Word) (s : State) : (raiseError code info s).errinfo = if s.err then s.errinfo else info := by
  cases h : s.err <;> simp [raiseError, h]
@[simp] theorem raiseError_block (code : ErrCode) (info : Word) (s : State) : (raiseError code info s).block = s.block := by
  cases h : s.err <;> simp [raiseError, h]
@[simp] theorem raiseError_key (code : ErrCode) (info : Word) (s : State) : (raiseError code info s).key = s.key := by
  cases h : s.err <;> simp [raiseError, h]
@[simp] theorem raiseError_nonce (code : ErrCode) (info : Word) (s : State) : (raiseError code info s).nonce = s.nonce := by
  cases h : s.err <;> simp [raiseError, h]
@[simp] theorem raiseError_ctr (code : ErrCode) (info : Word) (s : State) : (raiseError code info s).ctr = s.ctr := by
  cases h : s.err <;> simp [raiseError, h]
@[simp] theorem raiseError_seed (code : ErrCode) (info : Word) (s : State) : (raiseError code info s).seed = s.seed := by
  cases h : s.err <;> simp [raiseError, h]
@[simp] theorem raiseError_pctr (code : ErrCode) (info : Word) (s : State) : (raiseError code info s).pctr = s.pctr := by
  cases h : s.err <;> simp [raiseError, h]
@[simp] theorem raiseError_authR (code : ErrCode) (info : Word) (s : State) : (raiseError code info s).authR = s.authR := by
  cases h : s.err <;> simp [raiseError, h]
@[simp] theorem raiseError_authS (code : ErrCode) (info : Word) (s : State) : (raiseError code info s).authS = s.authS := by
  cases h : s.err <;> simp [raiseError, h]
@[simp] theorem raiseError_acc (code : ErrCode) (info : Word) (s : State) : (raiseError code info s).acc = s.acc := by
  cases h : s.err <;> simp [raiseError, h]
@[simp] theorem raiseError_tag (code : ErrCode) (info : Word) (s : State) : (raiseError code info s).tag = s.tag := by
  cases h : s.err <;> simp [raiseError, h]
@[simp] theorem raiseError_latch (code : ErrCode) (info : Word) (s : State) : (raiseError code info s).latch = s.latch := by
  cases h : s.err <;> simp [raiseError, h]
@[simp] theorem raiseError_env (code : ErrCode) (info : Word) (s : State) : (raiseError code info s).env = s.env := by
  cases h : s.err <;> simp [raiseError, h]
@[simp] theorem raiseError_busAnswer (code : ErrCode) (info : Word) (s : State) : (raiseError code info s).busAnswer = s.busAnswer := by
  cases h : s.err <;> simp [raiseError, h]
@[simp] theorem raiseError_draws (code : ErrCode) (info : Word) (s : State) : (raiseError code info s).draws = s.draws := by
  cases h : s.err <;> simp [raiseError, h]

/-! `resetRegisters`: every register as after reset, the model's own fields unchanged (R350) -/

@[simp] theorem resetRegisters_busy (s : State) : (resetRegisters s).busy = State.reset.busy := rfl
@[simp] theorem resetRegisters_done (s : State) : (resetRegisters s).done = State.reset.done := rfl
@[simp] theorem resetRegisters_err (s : State) : (resetRegisters s).err = State.reset.err := rfl
@[simp] theorem resetRegisters_errcode (s : State) : (resetRegisters s).errcode = State.reset.errcode := rfl
@[simp] theorem resetRegisters_doneIe (s : State) : (resetRegisters s).doneIe = State.reset.doneIe := rfl
@[simp] theorem resetRegisters_errIe (s : State) : (resetRegisters s).errIe = State.reset.errIe := rfl
@[simp] theorem resetRegisters_ksph (s : State) : (resetRegisters s).ksph = State.reset.ksph := rfl
@[simp] theorem resetRegisters_pph (s : State) : (resetRegisters s).pph = State.reset.pph := rfl
@[simp] theorem resetRegisters_errinfo (s : State) : (resetRegisters s).errinfo = State.reset.errinfo := rfl
@[simp] theorem resetRegisters_block (s : State) : (resetRegisters s).block = State.reset.block := rfl
@[simp] theorem resetRegisters_key (s : State) : (resetRegisters s).key = State.reset.key := rfl
@[simp] theorem resetRegisters_nonce (s : State) : (resetRegisters s).nonce = State.reset.nonce := rfl
@[simp] theorem resetRegisters_ctr (s : State) : (resetRegisters s).ctr = State.reset.ctr := rfl
@[simp] theorem resetRegisters_seed (s : State) : (resetRegisters s).seed = State.reset.seed := rfl
@[simp] theorem resetRegisters_pctr (s : State) : (resetRegisters s).pctr = State.reset.pctr := rfl
@[simp] theorem resetRegisters_authR (s : State) : (resetRegisters s).authR = State.reset.authR := rfl
@[simp] theorem resetRegisters_authS (s : State) : (resetRegisters s).authS = State.reset.authS := rfl
@[simp] theorem resetRegisters_acc (s : State) : (resetRegisters s).acc = State.reset.acc := rfl
@[simp] theorem resetRegisters_tag (s : State) : (resetRegisters s).tag = State.reset.tag := rfl
@[simp] theorem resetRegisters_latch (s : State) : (resetRegisters s).latch = State.reset.latch := rfl
@[simp] theorem resetRegisters_env (s : State) : (resetRegisters s).env = s.env := rfl
@[simp] theorem resetRegisters_busAnswer (s : State) : (resetRegisters s).busAnswer = s.busAnswer := rfl
@[simp] theorem resetRegisters_draws (s : State) : (resetRegisters s).draws = s.draws := rfl

end Sys2Proof.Machine
end

