-- ==== Sys2Proof/Laws/Bus.lean ====
section
/-! SUPPORT. What one access of the window can do, by the access class of the register it reaches. -/

namespace Sys2Proof.Machine

open Sys2Proof

theorem refuseWrite_eq (code : ErrCode) (info : Word) (s : State) :
    refuseWrite code info s = answer (.write code.busErr) (raiseError code info s) := rfl

theorem refuseRead_eq (code : ErrCode) (info : Word) (s : State) :
    refuseRead code info s = answer (.read 0 code.busErr) (raiseError code info s) := rfl

/-- A write that reaches no register (R82, R85). -/
theorem busAccess_write_none {a : BusAccess} {s : State} (hw : a.write = true) (h : accessedReg a = none) :
    busAccess a s = refuseWrite .badAccess (accessInfo a) s := by
  simp only [busAccess, hw, if_true, busWrite, h]

/-- A read that reaches no register (R82, R85). -/
theorem busAccess_read_none {a : BusAccess} {s : State} (hw : a.write = false) (h : accessedReg a = none) :
    busAccess a s = refuseRead .badAccess (accessInfo a) s := by
  simp only [busAccess, hw, Bool.false_eq_true, if_false, busRead, h]

/-- A write to a read-only register (R86). -/
theorem busAccess_write_readOnly {a : BusAccess} {s : State} {r : Reg} (hw : a.write = true)
    (h : accessedReg a = some r) (hc : r.accessClass = .ro ∨ r.accessClass = .tag) :
    busAccess a s = refuseWrite .badAccess (accessInfo a) s := by
  simp only [busAccess, hw, if_true, busWrite, h]
  rcases hc with hc | hc <;> rw [hc]

/-- A write to CMD. -/
theorem busAccess_write_cmd {a : BusAccess} {s : State} {r : Reg} (hw : a.write = true)
    (h : accessedReg a = some r) (hc : r.accessClass = .cmd) : busAccess a s = writeCmd a.wdata s := by
  simp only [busAccess, hw, if_true, busWrite, h]
  rw [hc]

/-- A write to STATUS. -/
theorem busAccess_write_status {a : BusAccess} {s : State} {r : Reg} (hw : a.write = true)
    (h : accessedReg a = some r) (hc : r.accessClass = .status) :
    busAccess a s = answer (.write false) (writeStatus a.wdata s) := by
  simp only [busAccess, hw, if_true, busWrite, h]
  rw [hc]

/-- A write to IRQEN, and to an RW-idle register while BUSY = 0 (R38, R54). -/
theorem busAccess_write_stored {a : BusAccess} {s : State} {r : Reg} (hw : a.write = true)
    (h : accessedReg a = some r) (hc : r.accessClass = .rw ∨ (r.accessClass = .rwIdle ∧ s.busy = false)) :
    busAccess a s = answer (.write false) (storeReg a.wdata s r) := by
  simp only [busAccess, hw, if_true, busWrite, h]
  rcases hc with hc | ⟨hc, hb⟩
  · rw [hc]
  · rw [hc, hb]
    rfl

/-- A write to an RW-idle register while BUSY = 1 (R356). -/
theorem busAccess_write_busy {a : BusAccess} {s : State} {r : Reg} (hw : a.write = true)
    (h : accessedReg a = some r) (hc : r.accessClass = .rwIdle) (hb : s.busy = true) :
    busAccess a s = refuseWrite .writeBusy (accessInfo a) s := by
  simp only [busAccess, hw, if_true, busWrite, h]
  rw [hc, hb]
  rfl

/-- A read of a register's value (R88). -/
theorem busAccess_read_value {a : BusAccess} {s : State} {r : Reg} (hw : a.write = false)
    (h : accessedReg a = some r) (hc : (s.busy && r.freeWhileBusy) = false) :
    busAccess a s = answer (.read (readReg Config.params s r) false) s := by
  simp only [busAccess, hw, Bool.false_eq_true, if_false, busRead, h, hc]

/-- A read of an RW-idle register or TAG while BUSY = 1 (R357). -/
theorem busAccess_read_free {a : BusAccess} {s : State} {r : Reg} (hw : a.write = false)
    (h : accessedReg a = some r) (hc : (s.busy && r.freeWhileBusy) = true) :
    busAccess a s = answer (.read (Config.busyRead s.draws) false) { s with draws := s.draws + 1 } := by
  simp only [busAccess, hw, Bool.false_eq_true, if_false, busRead, h, hc, if_true]

/-- What a write to CMD can do (R302): refused with nothing recorded, refused with an error, or accepted. -/
theorem writeCmd_cases (v : Word) (s : State) :
    (s.err = true ∧ writeCmd v s = answer (.write true) s) ∨
    (s.err = false ∧ ∃ code, (code = .cmdBusy ∨ code = .illegalOp ∨ code = .reservedBits ∨ code = .qrAlias) ∧
      writeCmd v s = refuseWrite code v s) ∨
    (s.err = false ∧ s.busy = false ∧ (∃ i, decodeWord v = .ok i ∧ i.wellFormed = true) ∧
      writeCmd v s = answer (.write false) (accept v s)) := by
  unfold writeCmd
  split
  · exact .inl ⟨‹_›, rfl⟩
  · have he : s.err = false := by simpa using ‹¬s.err = true›
    split
    · exact .inr (.inl ⟨he, .cmdBusy, by decide, rfl⟩)
    · have hb : s.busy = false := by simpa using ‹¬s.busy = true›
      split
      · exact .inr (.inl ⟨he, .illegalOp, by decide, rfl⟩)
      · exact .inr (.inl ⟨he, .reservedBits, by decide, rfl⟩)
      · split
        · exact .inr (.inr ⟨he, hb, ⟨_, ‹_›, ‹_›⟩, rfl⟩)
        · exact .inr (.inl ⟨he, .qrAlias, by decide, rfl⟩)

/-- What an access can do, once for every proof: it is refused with an error, it is a write to CMD, it is the W1C write to
STATUS, it stores a value in a register the host may write, or it is a read that changes no register. -/
theorem busAccess_cases (a : BusAccess) (s : State) :
    (∃ code ans, (code = .badAccess ∨ code = .writeBusy) ∧
      busAccess a s = answer ans (raiseError code (accessInfo a) s)) ∨
    busAccess a s = writeCmd a.wdata s ∨
    (accessedReg a = some .status ∧ a.write = true ∧
      busAccess a s = answer (.write false) (writeStatus a.wdata s)) ∨
    (∃ r, accessedReg a = some r ∧ a.write = true ∧ (r.accessClass = .rw ∨ (r.accessClass = .rwIdle ∧ s.busy = false)) ∧
      busAccess a s = answer (.write false) (storeReg a.wdata s r)) ∨
    (∃ v, busAccess a s = answer (.read v false) s) ∨
    (∃ v, busAccess a s = answer (.read v false) { s with draws := s.draws + 1 }) := by
  cases hw : a.write with
  | true =>
    cases h : accessedReg a with
    | none => exact .inl ⟨.badAccess, _, by decide, busAccess_write_none hw h⟩
    | some r =>
      cases hc : r.accessClass with
      | ro => exact .inl ⟨.badAccess, _, by decide, busAccess_write_readOnly hw h (.inl hc)⟩
      | tag => exact .inl ⟨.badAccess, _, by decide, busAccess_write_readOnly hw h (.inr hc)⟩
      | cmd => exact .inr (.inl (busAccess_write_cmd hw h hc))
      | status =>
        have hr : r = .status := by cases r <;> simp_all [Reg.accessClass]
        subst hr
        exact .inr (.inr (.inl ⟨rfl, rfl, busAccess_write_status hw h hc⟩))
      | rw => exact .inr (.inr (.inr (.inl ⟨r, rfl, rfl, .inl hc, busAccess_write_stored hw h (.inl hc)⟩)))
      | rwIdle =>
        cases hb : s.busy with
        | true => exact .inl ⟨.writeBusy, _, by decide, busAccess_write_busy hw h hc hb⟩
        | false =>
          exact .inr (.inr (.inr (.inl ⟨r, rfl, rfl, .inr ⟨hc, rfl⟩, busAccess_write_stored hw h (.inr ⟨hc, hb⟩)⟩)))
  | false =>
    cases h : accessedReg a with
    | none => exact .inl ⟨.badAccess, _, by decide, busAccess_read_none hw h⟩
    | some r =>
      cases hc : s.busy && r.freeWhileBusy with
      | false => exact .inr (.inr (.inr (.inr (.inl ⟨_, busAccess_read_value hw h hc⟩))))
      | true => exact .inr (.inr (.inr (.inr (.inr ⟨_, busAccess_read_free hw h hc⟩))))

end Sys2Proof.Machine
end

