-- ==== Sys2Proof/Laws/Encoding.lean ====
section
/-! SUPPORT. The bits of a command word and of its fields. -/

namespace Sys2Proof

@[simp] theorem getLsbD_fieldAt {n : Nat} (v : BitVec n) (lo j : Nat) :
    (fieldAt v lo).getLsbD j = (decide (j < 32) && decide (lo ≤ j) && v.getLsbD (j - lo)) := by
  by_cases h : j < 32 <;> by_cases h2 : j < lo <;> simp [fieldAt, BitVec.getLsbD_shiftLeft, h, h2]
  omega

@[simp] theorem getElem_fieldAt {n : Nat} (v : BitVec n) (lo j : Nat) (h : j < 32) :
    (fieldAt v lo)[j] = (decide (lo ≤ j) && v.getLsbD (j - lo)) := by
  rw [← BitVec.getLsbD_eq_getElem, getLsbD_fieldAt]
  simp [h]

/-- The OP field of a command's word is its opcode (R111). -/
theorem opField_encode (i : Instr) : opField (encode i) = i.opcode := by
  cases i with
  | qr a b c d =>
    apply BitVec.eq_of_getLsbD_eq
    intro j hj
    interval_cases j <;> simp [opField, encode, Instr.operandBits, Instr.opcode]
  | pabs w =>
    apply BitVec.eq_of_getLsbD_eq
    intro j hj
    interval_cases j <;> simp [opField, encode, Instr.operandBits, Instr.opcode]
  | _ => decide

/-- What the format N decoder answers. -/
theorem decodeN_ok {cmd : Word} {i j : Instr} (h : decodeN cmd i = .ok j) : j = i ∧ cmd.extractLsb' 8 24 = 0 := by
  unfold decodeN at h
  split at h
  · rename_i h0
    exact ⟨by simpa using h.symm, h0⟩
  · cases h

end Sys2Proof
end

