-- ==== Sys2Proof/Laws/Commands.lean ====
section
/-! SUPPORT. What every command's completion does to what is not its result (60_exceptions.md R300), and what the result can
depend on. -/

namespace Sys2Proof.Machine

open Sys2Proof Sys2Proof.Safety

/-- QR on four distinct indices (R151). -/
theorem execQr_distinct {a b c d : BitVec 4} (h : indicesDistinct a b c d = true) (s : State) :
    execQr a b c d s = .next (complete
      { s with block := mixAt (stateIndex a) (stateIndex b) (stateIndex c) (stateIndex d) s.block }) := by
  unfold execQr
  rw [if_pos h]

/-- QR with two equal indices (R152; log 13). -/
theorem execQr_alias {a b c d : BitVec 4} (h : indicesDistinct a b c d = false) (s : State) :
    execQr a b c d s = .next (raiseError .qrAlias (encode (.qr a b c d)) (retire s)) := by
  unfold execQr
  rw [if_neg (by rw [h]; decide)]

/-- A well-formed command completes: BUSY 0, DONE 1, the latch empty, and nothing of the error record, of IRQEN or of the
model's own fields changed (R300). -/
theorem exec_completes {i : Instr} (hi : i.wellFormed = true) (s : State) :
    ∃ t, exec i s = .next t ∧ t.busy = false ∧ t.done = true ∧ t.latch = none ∧ t.err = s.err ∧
      t.errcode = s.errcode ∧ t.errinfo = s.errinfo ∧ t.doneIe = s.doneIe ∧ t.errIe = s.errIe ∧ t.env = s.env ∧
      t.busAnswer = s.busAnswer ∧ t.draws = s.draws := by
  cases i with
  | qr a b c d => exact ⟨_, execQr_distinct hi s, rfl, rfl, rfl, rfl, rfl, rfl, rfl, rfl, rfl, rfl, rfl⟩
  | nop | round | perm | zero | ctrd | pctrd | ksblk | pksblk | pkeygen | pinit | pabs w | pfin =>
    exact ⟨_, rfl, rfl, rfl, rfl, rfl, rfl, rfl, rfl, rfl, rfl, rfl, rfl⟩

/-- Agreement on the data registers and PHASE is transitive. -/
theorem sameData_trans {s t u : State} (h : SameData s t) (k : SameData t u) : SameData s u := by
  obtain ⟨h1, h2, h3, h4, h5, h6, h7, h8, h9, h10, h11, h12⟩ := h
  obtain ⟨k1, k2, k3, k4, k5, k6, k7, k8, k9, k10, k11, k12⟩ := k
  exact ⟨h1.trans k1, h2.trans k2, h3.trans k3, h4.trans k4, h5.trans k5, h6.trans k6, h7.trans k7, h8.trans k8,
    h9.trans k9, h10.trans k10, h11.trans k11, h12.trans k12⟩

/-- What a command does to the data registers and PHASE depends on the data registers and PHASE alone (R231). -/
theorem exec_sameData (i : Instr) {s s' t t' : State} (h : SameData s s') (ht : exec i s = .next t)
    (ht' : exec i s' = .next t') : SameData t t' := by
  obtain ⟨h1, h2, h3, h4, h5, h6, h7, h8, h9, h10, h11, h12⟩ := h
  cases i with
  | qr a b c d =>
    cases hd : indicesDistinct a b c d with
    | true =>
      cases (execQr_distinct hd s).symm.trans ht
      cases (execQr_distinct hd s').symm.trans ht'
      simp only [SameData, complete_block, complete_key, complete_nonce, complete_ctr, complete_seed, complete_pctr,
        complete_authR, complete_authS, complete_acc, complete_tag, complete_ksph, complete_pph, h1, h2, h3, h4, h5,
        h6, h7, h8, h9, h10, h11, h12, and_self]
    | false =>
      cases (execQr_alias hd s).symm.trans ht
      cases (execQr_alias hd s').symm.trans ht'
      simp [SameData, h1, h2, h3, h4, h5, h6, h7, h8, h9, h10, h11, h12]
  | nop | round | perm | zero | ctrd | pctrd | ksblk | pksblk | pkeygen | pinit | pabs w | pfin =>
    cases ht
    cases ht'
    simp only [SameData, ctrdState, pctrdState, pksblkState, pkeygenState, loadC, loadP, complete_block, complete_key,
      complete_nonce, complete_ctr, complete_seed, complete_pctr, complete_authR, complete_authS, complete_acc,
      complete_tag, complete_ksph, complete_pph, h1, h2, h3, h4, h5, h6, h7, h8, h9, h10, h11, h12, and_self]

/-- A list of completion steps, cut in two. -/
theorem execAll_append (l m : List Instr) (s : State) :
    execAll (l ++ m) s =
      match execAll l s with
      | .next t => execAll m t
      | .fault f => .fault f
      | .refused r => .refused r := by
  induction l generalizing s with
  | nil => rfl
  | cons i l ih =>
    simp only [List.cons_append, execAll]
    cases exec i s <;> simp [ih]

end Sys2Proof.Machine
end

