-- ==== Sys2Proof/Laws/Poly1305.lean ====
section
/-! SUPPORT. Words and their bytes (00_scope.md R16, R17), and the halves of the one-time key (44_poly1305.md R251, R252). -/

namespace Sys2Proof.Machine

open Sys2Proof

/-- A word from its four bytes (R16). -/
theorem leWord_byteOf (x : Word) : leWord (byteOf x 0) (byteOf x 1) (byteOf x 2) (byteOf x 3) = x := by
  apply BitVec.eq_of_getLsbD_eq
  intro j hj
  interval_cases j <;> simp [leWord, byteOf, fieldAt]

/-- The bytes of a word-reversed word are the bytes of the word, the last first (R252). -/
theorem byteOf_bswap32 (x : Word) (t : Nat) (ht : t < 4) : byteOf (bswap32 x) t = byteOf x (3 - t) := by
  apply BitVec.eq_of_getLsbD_eq
  intro j hj
  interval_cases t <;> interval_cases j <;> simp [byteOf, bswap32, leWord, fieldAt]

/-- A word as the sum of its bytes (R16). -/
theorem byteSum (x : Word) :
    (byteOf x 0).toNat + 256 * ((byteOf x 1).toNat + 256 * ((byteOf x 2).toNat + 256 * (byteOf x 3).toNat)) =
      x.toNat := by
  have := x.isLt
  simp only [byteOf, BitVec.extractLsb'_toNat, Nat.shiftRight_eq_div_pow]
  omega

/-- A byte-swapped word as the sum of the word's bytes. -/
theorem byteSum_bswap32 (x : Word) :
    (byteOf x 3).toNat + 256 * ((byteOf x 2).toNat + 256 * ((byteOf x 1).toNat + 256 * (byteOf x 0).toNat)) =
      (bswap32 x).toNat := by
  have h := byteSum (bswap32 x)
  rw [byteOf_bswap32 x 0 (by decide), byteOf_bswap32 x 1 (by decide), byteOf_bswap32 x 2 (by decide),
    byteOf_bswap32 x 3 (by decide)] at h
  exact h

/-- A word from four bytes as the sum of the bytes (R16). -/
theorem leWord_toNat (b0 b1 b2 b3 : Byte) :
    (leWord b0 b1 b2 b3).toNat = b0.toNat + 256 * b1.toNat + 65536 * b2.toNat + 16777216 * b3.toNat := by
  rw [← byteSum]
  have h : byteOf (leWord b0 b1 b2 b3) 0 = b0 ∧ byteOf (leWord b0 b1 b2 b3) 1 = b1 ∧
      byteOf (leWord b0 b1 b2 b3) 2 = b2 ∧ byteOf (leWord b0 b1 b2 b3) 3 = b3 := by
    refine ⟨?_, ?_, ?_, ?_⟩ <;> apply BitVec.eq_of_getLsbD_eq <;> intro j hj <;> interval_cases j <;>
      simp [byteOf, leWord, fieldAt]
  rw [h.1, h.2.1, h.2.2.1, h.2.2.2]
  omega

/-- Word `k` of a byte list (R16, R84). -/
@[simp] theorem getElem_wordsOfBytes (n : Nat) (bs : List Byte) (k : Nat) (hk : k < n) :
    (wordsOfBytes n bs)[k] =
      leWord (bs.getD (4 * k) 0) (bs.getD (4 * k + 1) 0) (bs.getD (4 * k + 2) 0) (bs.getD (4 * k + 3) 0) := by
  simp only [wordsOfBytes, Vector.getElem_ofFn]

/-- The serialisation of a word sequence is four bytes a word (R16). -/
theorem wordBytes_length (ws : List Word) : (wordBytes ws).length = 4 * ws.length := by
  induction ws with
  | nil => rfl
  | cons w ws ih =>
    simp only [wordBytes, List.flatMap_cons, List.length_append] at *
    rw [ih]
    simp only [leBytes, List.length_cons, List.length_nil]
    omega

/-- The bytes of the first words are the first bytes (R16). -/
theorem wordBytes_take (ws : List Word) (k : Nat) : wordBytes (ws.take k) = (wordBytes ws).take (4 * k) := by
  induction ws generalizing k with
  | nil => simp [wordBytes]
  | cons w ws ih =>
    cases k with
    | zero => simp [wordBytes]
    | succ k =>
      simp only [List.take_succ_cons, wordBytes, List.flatMap_cons] at *
      rw [ih k, List.take_append, List.take_of_length_le (l := leBytes w) (by simp [leBytes])]
      congr 2

/-- The little-endian integer of four words (R17). -/
theorem intLe_four (a b c d : Word) :
    intLe (leBytes a ++ leBytes b ++ leBytes c ++ leBytes d) =
      a.toNat + 2 ^ 32 * (b.toNat + 2 ^ 32 * (c.toNat + 2 ^ 32 * d.toNat)) := by
  rw [← byteSum a, ← byteSum b, ← byteSum c, ← byteSum d]
  simp only [intLe, leBytes, List.cons_append, List.nil_append, List.foldr_cons, List.foldr_nil]
  omega

/-- The big-endian integer of four words (R17). -/
theorem intBe_four (a b c d : Word) :
    intBe (leBytes a ++ leBytes b ++ leBytes c ++ leBytes d) =
      (bswap32 d).toNat + 2 ^ 32 * ((bswap32 c).toNat + 2 ^ 32 * ((bswap32 b).toNat + 2 ^ 32 * (bswap32 a).toNat)) := by
  rw [← byteSum_bswap32 a, ← byteSum_bswap32 b, ← byteSum_bswap32 c, ← byteSum_bswap32 d]
  simp only [intBe, leBytes, List.cons_append, List.nil_append, List.foldl_cons, List.foldl_nil]
  omega

/-- The words of a 128-bit integer written as a sum of four words (R14). -/
theorem getWord_ofNat (a b c d : Word) (n : Nat)
    (h : n = a.toNat + 2 ^ 32 * (b.toNat + 2 ^ 32 * (c.toNat + 2 ^ 32 * d.toNat))) :
    getWord (BitVec.ofNat 128 n) 0 = a ∧ getWord (BitVec.ofNat 128 n) 1 = b ∧ getWord (BitVec.ofNat 128 n) 2 = c ∧
      getWord (BitVec.ofNat 128 n) 3 = d := by
  have := a.isLt
  have := b.isLt
  have := c.isLt
  have := d.isLt
  refine ⟨?_, ?_, ?_, ?_⟩ <;> apply BitVec.eq_of_toNat_eq <;> simp [getWord, Nat.shiftRight_eq_div_pow] <;> omega

/-- The two halves of the one-time key, in words (R251). -/
theorem keyBytes_halves (x : Vector Word 16) :
    (keyBytes x).take 16 = leBytes x[0] ++ leBytes x[1] ++ leBytes x[2] ++ leBytes x[3] ∧
      (keyBytes x).drop 16 = leBytes x[4] ++ leBytes x[5] ++ leBytes x[6] ++ leBytes x[7] := by
  have h : x.toList.take 8 = [x[0], x[1], x[2], x[3], x[4], x[5], x[6], x[7]] := by
    apply List.ext_getElem
    · simp
    · intro i h1 h2
      simp at h2
      interval_cases i <;> simp
  unfold keyBytes
  rw [h]
  exact ⟨rfl, rfl⟩

end Sys2Proof.Machine
end

