-- ==== Sys2Proof/Laws/Sequencer.lean ====
section
/-! SUPPORT. What one clock cycle can do, and what an access can do to the command latch and the invariant. -/

namespace Sys2Proof.Machine

open Sys2Proof Sys2Proof.Safety

/-- A command in the latch that decodes is performed (R300). -/
theorem runLatched_ok {s : State} {l : Latched} {i : Instr} (hl : s.latch = some l) (hd : decodeWord l.word = .ok i) :
    runLatched s = exec i s := by
  simp only [runLatched, fetchLatched, hl, hd]

/-- A cycle with `rst_n` = 1 and no command in flight: the access alone. -/
theorem clockCycle_idle {c : BusCycle} {s : State} (hr : c.rstN = true) (hb : s.busy = false) :
    clockCycle c s = .next (presentAccess c.access s) := by
  simp only [clockCycle, hr, if_true, hb, Bool.false_eq_true, if_false]

/-- A cycle with `rst_n` = 1 that ends a latency: the completion, on the state after the access. -/
theorem clockCycle_completes {c : BusCycle} {s : State} (hr : c.rstN = true) (hb : s.busy = true)
    (hw : latencyOver s = true) : clockCycle c s = runLatched (presentAccess c.access s) := by
  simp only [clockCycle, hr, if_true, hb, hw]

/-- A cycle with `rst_n` = 1 inside a latency. -/
theorem clockCycle_waits {c : BusCycle} {s : State} (hr : c.rstN = true) (hb : s.busy = true)
    (hw : latencyOver s = false) : clockCycle c s = .next (countDown (presentAccess c.access s)) := by
  simp only [clockCycle, hr, if_true, hb, hw, Bool.false_eq_true, if_false]

/-- A cycle with `rst_n` = 0 (R350): every register reset, at most an answer recorded. -/
theorem clockCycle_reset {c : BusCycle} {s : State} (hr : c.rstN = false) :
    ∃ ans, clockCycle c s = .next { resetRegisters s with busAnswer := ans } := by
  cases ha : c.access with
  | none => exact ⟨s.busAnswer, by simp only [clockCycle, hr, ha, Bool.false_eq_true, if_false]; rfl⟩
  | some a => exact ⟨_, by simp only [clockCycle, hr, ha, Bool.false_eq_true, if_false, ignoredAccess, answer]; rfl⟩

/-- A write of a register the host may write keeps STATUS, ERRINFO, the latch and the model's own fields. -/
theorem storeReg_keeps (v : Word) (s : State) (r : Reg) :
    (storeReg v s r).busy = s.busy ∧ (storeReg v s r).done = s.done ∧ (storeReg v s r).err = s.err ∧
      (storeReg v s r).errcode = s.errcode ∧ (storeReg v s r).errinfo = s.errinfo ∧
      (storeReg v s r).latch = s.latch ∧ (storeReg v s r).env = s.env ∧ (storeReg v s r).draws = s.draws := by
  cases r <;> exact ⟨rfl, rfl, rfl, rfl, rfl, rfl, rfl, rfl⟩

/-- A write of IRQEN keeps every data register and PHASE. -/
theorem storeReg_rw_sameData {r : Reg} (hr : r.accessClass = .rw) (v : Word) (s : State) :
    SameData (storeReg v s r) s := by
  cases r <;> first | exact ⟨rfl, rfl, rfl, rfl, rfl, rfl, rfl, rfl, rfl, rfl, rfl, rfl⟩ | simp [Reg.accessClass] at hr

/-- The W1C write to STATUS, field by field. -/
theorem writeStatus_eq (v : Word) (s : State) :
    writeStatus v s =
      { s with
        done := s.done && !v.getLsbD 1
        err := s.err && !v.getLsbD 2
        errcode := if v.getLsbD 2 then .none else s.errcode
        errinfo := if v.getLsbD 2 then 0 else s.errinfo } := by
  unfold writeStatus
  generalize v.getLsbD 1 = d
  generalize v.getLsbD 2 = e
  cases d <;> cases e <;> simp [clearError]

/-- An access takes nothing from `env`. -/
theorem busAccess_env (a : BusAccess) (s : State) : (busAccess a s).env = s.env := by
  rcases busAccess_cases a s with ⟨c, n, -, h⟩ | h | ⟨-, -, h⟩ | ⟨r, -, -, -, h⟩ | ⟨v, h⟩ | ⟨v, h⟩ <;> rw [h]
  · rw [answer_env, raiseError_env]
  · rcases writeCmd_cases a.wdata s with ⟨-, h⟩ | ⟨-, c, -, h⟩ | ⟨-, -, -, h⟩ <;> rw [h]
    · rfl
    · rw [refuseWrite_eq, answer_env, raiseError_env]
    · rfl
  · rw [answer_env, writeStatus_eq]
  · rw [answer_env]; exact (storeReg_keeps _ _ _).2.2.2.2.2.2.1
  · rfl
  · rfl

/-- An access while a command is in flight changes no input of it (R93, R356). -/
theorem busAccess_busy {a : BusAccess} {s : State} (hb : s.busy = true) :
    SameData (busAccess a s) s ∧ (busAccess a s).busy = true ∧ (busAccess a s).latch = s.latch := by
  rcases busAccess_cases a s with ⟨c, n, -, h⟩ | h | ⟨-, -, h⟩ | ⟨r, -, -, hr, h⟩ | ⟨v, h⟩ | ⟨v, h⟩ <;> rw [h]
  · simp [SameData, hb]
  · rcases writeCmd_cases a.wdata s with ⟨-, h⟩ | ⟨-, c, -, h⟩ | ⟨-, hf, -, h⟩
    · rw [h]; simp [SameData, hb]
    · rw [h, refuseWrite_eq]; simp [SameData, hb]
    · rw [hb] at hf; cases hf
  · rw [writeStatus_eq]; simp [SameData, hb]
  · rcases hr with hr | ⟨-, hf⟩
    · obtain ⟨h1, h2, h3, h4, h5, h6, h7, h8, h9, h10, h11, h12⟩ := storeReg_rw_sameData hr a.wdata s
      obtain ⟨k1, -, -, -, -, k6, -, -⟩ := storeReg_keeps a.wdata s r
      exact ⟨⟨h1, h2, h3, h4, h5, h6, h7, h8, h9, h10, h11, h12⟩, k1.trans hb, k6⟩
    · rw [hb] at hf; cases hf
  · exact ⟨⟨rfl, rfl, rfl, rfl, rfl, rfl, rfl, rfl, rfl, rfl, rfl, rfl⟩, hb, rfl⟩
  · exact ⟨⟨rfl, rfl, rfl, rfl, rfl, rfl, rfl, rfl, rfl, rfl, rfl, rfl⟩, hb, rfl⟩

/-- An access keeps the invariant. -/
theorem busAccess_inv {a : BusAccess} {s : State} (hs : Inv s) : Inv (busAccess a s) := by
  obtain ⟨h1, h2, h3, h4⟩ := hs
  have raised : ∀ code info ans, code ≠ .none → Inv (answer ans (raiseError code info s)) := by
    intro code info ans hc
    refine ⟨by simpa using h1, by simpa [latchedOk] using h2, ?_, by simp⟩
    cases he : s.err <;> simp [he, hc]
    rw [h3, he]
    decide
  rcases busAccess_cases a s with ⟨c, n, hc, h⟩ | h | ⟨-, -, h⟩ | ⟨r, -, -, -, h⟩ | ⟨v, h⟩ | ⟨v, h⟩ <;> rw [h]
  · exact raised _ _ _ (by rcases hc with h | h <;> rw [h] <;> decide)
  · rcases writeCmd_cases a.wdata s with ⟨-, h⟩ | ⟨-, c, hc, h⟩ | ⟨-, -, ⟨i, hd, hi⟩, h⟩ <;> rw [h]
    · exact ⟨h1, h2, h3, h4⟩
    · exact raised _ _ _ (by rcases hc with h | h | h | h <;> rw [h] <;> decide)
    · refine ⟨rfl, ?_, h3, h4⟩
      simp only [latchedOk, answer_latch, accept_latch, hd, hi]
  · rw [writeStatus_eq]
    refine ⟨h1, h2, ?_, ?_⟩
    · cases hv : a.wdata.getLsbD 2 <;> simp [h3]
    · cases hv : a.wdata.getLsbD 2 <;> simp
      exact h4
  · obtain ⟨k1, -, k3, k4, k5, k6, -, -⟩ := storeReg_keeps a.wdata s r
    refine ⟨?_, ?_, ?_, ?_⟩
    · simp only [answer_busy, answer_latch, k1, k6]; exact h1
    · simp only [latchedOk, answer_latch, k6]; exact h2
    · simp only [answer_errcode, answer_err, k3, k4]; exact h3
    · simp only [answer_errinfo, answer_err, k3, k5]; exact h4
  · exact ⟨h1, h2, h3, h4⟩
  · exact ⟨h1, h2, h3, h4⟩

/-- An access, or none, keeps the invariant. -/
theorem presentAccess_inv {access : Option BusAccess} {s : State} (hs : Inv s) : Inv (presentAccess access s) := by
  cases access with
  | none => exact hs
  | some a => exact busAccess_inv hs

/-- An access, or none, while a command is in flight changes no input of it. -/
theorem presentAccess_busy {access : Option BusAccess} {s : State} (hb : s.busy = true) :
    SameData (presentAccess access s) s ∧ (presentAccess access s).busy = true ∧
      (presentAccess access s).latch = s.latch := by
  cases access with
  | none => exact ⟨⟨rfl, rfl, rfl, rfl, rfl, rfl, rfl, rfl, rfl, rfl, rfl, rfl⟩, hb, rfl⟩
  | some a => exact busAccess_busy hb

/-- An access, or none, takes nothing from `env`. -/
theorem presentAccess_env (access : Option BusAccess) (s : State) : (presentAccess access s).env = s.env := by
  cases access with
  | none => rfl
  | some a => exact busAccess_env a s

/-- The command in the latch of a state that meets the invariant. -/
theorem latched_of_inv {s : State} (hs : Inv s) {l : Latched} (hl : s.latch = some l) :
    s.busy = true ∧ ∃ i, decodeWord l.word = .ok i ∧ i.wellFormed = true := by
  obtain ⟨h1, h2, -, -⟩ := hs
  refine ⟨by rw [h1, hl]; rfl, ?_⟩
  simp only [latchedOk, hl] at h2
  split at h2
  · exact ⟨_, ‹_›, h2⟩
  · cases h2

end Sys2Proof.Machine
end

