-- ==== Sys2Proof/Laws/Words.lean ====
section
/-! SUPPORT. The words of a multi-word register (R14) and the rotation of R13. -/

namespace Sys2Proof.Machine

open Sys2Proof

theorem getLsbD_getWord {n : Nat} (x : BitVec n) (k j : Nat) :
    (getWord x k).getLsbD j = (decide (j < 32) && x.getLsbD (32 * k + j)) := by
  simp [getWord]

theorem getLsbD_putWord {n : Nat} (x : BitVec n) (k j : Nat) (v : Word) (hj : j < n) :
    (putWord x k v).getLsbD j =
      if 32 * k ≤ j ∧ j < 32 * k + 32 then v.getLsbD (j - 32 * k) else x.getLsbD j := by
  simp only [putWord, BitVec.getLsbD_or, BitVec.getLsbD_and, BitVec.getLsbD_not, BitVec.getLsbD_shiftLeft,
    BitVec.getLsbD_setWidth, BitVec.getLsbD_allOnes, hj, decide_true, Bool.true_and]
  by_cases h1 : j < 32 * k
  · simp [h1, show ¬ 32 * k ≤ j by omega]
  · by_cases h2 : j < 32 * k + 32
    · simp [h1, h2, show 32 * k ≤ j by omega, show j - 32 * k < 32 by omega, show j - 32 * k < n by omega]
    · simp [h1, h2, show ¬ j - 32 * k < 32 by omega, BitVec.getLsbD_of_ge v (j - 32 * k) (by omega)]

/-- A 128-bit integer from its four words (R14). -/
theorem append_getWord (x : BitVec 128) :
    (getWord x 3 ++ getWord x 2 ++ getWord x 1 ++ getWord x 0 : BitVec 128) = x := by
  apply BitVec.eq_of_getLsbD_eq
  intro j hj
  simp only [BitVec.getLsbD_append, getLsbD_getWord]
  split
  · simp only [*, decide_true, Bool.true_and]; congr 1; omega
  · split
    · simp only [*, decide_true, Bool.true_and]; congr 1; omega
    · split
      · simp only [*, decide_true, Bool.true_and]; congr 1; omega
      · rw [decide_eq_true (by omega : _ < 32), Bool.true_and]; congr 1; omega

/-- The word written, cut to the bits the register has (R53). -/
theorem getLsbD_getWord_putWord_same {n : Nat} (x : BitVec n) (k : Nat) (v : Word) (j : Nat) (hj : j < 32) :
    (getWord (putWord x k v) k).getLsbD j = (decide (32 * k + j < n) && v.getLsbD j) := by
  rw [getLsbD_getWord]
  by_cases hn : 32 * k + j < n
  · rw [getLsbD_putWord x k _ v hn, if_pos ⟨by omega, by omega⟩, show 32 * k + j - 32 * k = j by omega]
    simp only [hj, hn]
  · rw [BitVec.getLsbD_of_ge _ _ (Nat.le_of_not_lt hn)]
    simp only [hn, decide_false, Bool.and_false, Bool.false_and]

/-- The other words of the register. -/
theorem getWord_putWord_other {n : Nat} (x : BitVec n) (k m : Nat) (v : Word) (h : m ≠ k) :
    getWord (putWord x k v) m = getWord x m := by
  apply BitVec.eq_of_getLsbD_eq
  intro j hj
  rw [getLsbD_getWord, getLsbD_getWord]
  by_cases hn : 32 * m + j < n
  · rw [getLsbD_putWord x k _ v hn, if_neg (by omega)]
  · rw [BitVec.getLsbD_of_ge _ _ (Nat.le_of_not_lt hn), BitVec.getLsbD_of_ge _ _ (Nat.le_of_not_lt hn)]

/-- `rotl` is BitVec's own rotation for the amounts the core uses (R13). -/
theorem rotl_eq_rotateLeft (x : Word) (n : Nat) (h : n < 32) : rotl x n = x.rotateLeft n := by
  simp [rotl, BitVec.rotateLeft_def, Nat.mod_eq_of_lt h]

end Sys2Proof.Machine
end

