-- ==== Sys2Proof/Laws/HostProcedures.lean ====
section
/-! SUPPORT. What the host's whole-word accesses do to an idle core with ERR = 0 (30_encoding.md R124, 43_keystream.md R226). -/

namespace Sys2Proof.Machine

open Sys2Proof Sys2Proof.Safety

/-- Each register is found at its own offset (R30). -/
theorem regAt_offset (r : Reg) : regAt r.offset = some r := by
  cases r with
  | id | cmd | status | irqen | phase | errinfo => rfl
  | sigf k | prime k | state k | key k | nonce k | ctr k | seed k | pctr k | r k | s k | acc k | tag k =>
    revert k
    decide

/-- Every register lies in the window (R30). -/
theorem offset_lt (r : Reg) : r.offset < 0x200 := by
  cases r <;> simp only [Reg.offset] <;> omega

/-- `wr REG` reaches REG. -/
theorem accessedReg_regWrite (r : Reg) (v : Word) : accessedReg (regWrite r v) = some r := by
  simp [accessedReg, regWrite, Nat.mod_eq_of_lt (offset_lt r), regAt_offset]

/-- `rd REG` reaches REG. -/
theorem accessedReg_regRead (r : Reg) : accessedReg (regRead r) = some r := by
  simp [accessedReg, regRead, Nat.mod_eq_of_lt (offset_lt r), regAt_offset]

/-- The answer to an access is no register. -/
theorem readReg_answer (p : Params) (a : BusAnswer) (s : State) (r : Reg) :
    readReg p (answer a s) r = readReg p s r := by
  cases r <;> rfl

/-- A stored PHASE reads back its three bits (R39). -/
theorem phaseWord_stored (s : State) (v : Word) :
    phaseWord { s with ksph := phaseKsph v, pph := phasePph v } = v &&& 7 := by
  apply BitVec.eq_of_toNat_eq
  simp only [phaseWord, phaseKsph, phasePph, BitVec.toNat_ofNat, BitVec.toNat_and]
  rw [show (7 : Word).toNat = 2 ^ 3 - 1 from rfl, Nat.and_two_pow_sub_one_eq_mod]
  omega

/-- A stored register reads back the writable bits of the value (R53, R54). -/
theorem readReg_storeReg_same (p : Params) (s : State) (r : Reg) (v : Word)
    (h : r.accessClass = .rw ∨ r.accessClass = .rwIdle) : readReg p (storeReg v s r) r = v &&& writableBits r := by
  cases r with
  | irqen =>
    apply BitVec.eq_of_getLsbD_eq
    intro j hj
    interval_cases j <;> simp [readReg, storeReg, irqenWord, writableBits, fieldAt]
  | phase => exact phaseWord_stored s v
  | r k | s k | acc k =>
    apply BitVec.eq_of_getLsbD_eq
    intro j hj
    simp only [readReg, storeReg]
    rw [getLsbD_getWord_putWord_same _ _ _ _ hj]
    fin_cases k <;> simp [writableBits] <;> interval_cases j <;> simp
  | state k | key k | nonce k | ctr k | seed k | pctr k =>
    simp only [readReg, storeReg, writableBits, Fin.getElem_fin, Vector.getElem_set_self]
    exact (BitVec.and_allOnes (w := 32)).symm
  | id | cmd | status | errinfo | sigf k | prime k | tag k => simp [Reg.accessClass] at h

/-- A store leaves every other register alone (R30). -/
theorem readReg_storeReg_other (p : Params) (s : State) (r q : Reg) (v : Word) (hq : q ≠ r) :
    readReg p (storeReg v s r) q = readReg p s q := by
  cases r <;> cases q <;> (try rfl) <;> (try exact absurd rfl hq) <;> (rename_i k m; simp only [readReg, storeReg])
  all_goals (have hkm : m ≠ k := fun h => hq (by rw [h]))
  all_goals
    first
    | (apply getWord_putWord_other; exact fun h => hkm (Fin.ext h))
    | (simp only [Fin.getElem_fin]; rw [Vector.getElem_set_ne]; exact fun h => hkm (Fin.ext h.symm))

/-- `wr REG, v` on an idle core with ERR = 0. -/
theorem wr_ready {s : State} (hs : Ready s) (r : Reg) (v : Word) (h : r.accessClass = .rw ∨ r.accessClass = .rwIdle) :
    ∃ t, wr r v s = some t ∧ t = answer (.write false) (storeReg v s r) ∧ Ready t := by
  obtain ⟨hb, he, hl⟩ := hs
  obtain ⟨k1, -, k3, -, -, k6, -, -⟩ := storeReg_keeps v s r
  refine ⟨_, ?_, rfl, k1.trans hb, k3.trans he, k6.trans hl⟩
  simp only [wr, hostCycle]
  rw [clockCycle_idle rfl hb]
  show some (busAccess _ _) = _
  rw [busAccess_write_stored (a := regWrite r v) rfl (accessedReg_regWrite _ _) (h.imp id fun h => ⟨h, hb⟩)]
  rfl

/-- `rd REG` on an idle core. -/
theorem rd_ready {s : State} (hs : Ready s) (r : Reg) :
    rd r s = some (readReg Config.params s r, answer (.read (readReg Config.params s r) false) s) := by
  obtain ⟨hb, -, -⟩ := hs
  have h : hostCycle (some (regRead r)) s = some (answer (.read (readReg Config.params s r) false) s) := by
    simp only [hostCycle]
    rw [clockCycle_idle rfl hb]
    show some (busAccess _ _) = _
    rw [busAccess_read_value (a := regRead r) rfl (accessedReg_regRead _) (by simp [hb])]
  simp [rd, h]

/-- The value of a message word (44_poly1305.md R258). -/
theorem wordOfBytes_toNat (order : ByteOrder) (b0 b1 : Byte) :
    (wordOfBytes order b0 b1).toNat =
      match order with
      | .little => b0.toNat + 256 * b1.toNat
      | .big => 256 * b0.toNat + b1.toNat := by
  have h : ∀ a b : Byte, (a ++ b).toNat = 256 * a.toNat + b.toNat := by
    intro a b
    rw [BitVec.toNat_append, ← Nat.shiftLeft_add_eq_or_of_lt b.isLt, Nat.shiftLeft_eq]
    omega
  cases order
  · exact h b0 b1
  · exact (h b1 b0).trans (Nat.add_comm _ _)

/-- What `rd TAG0..TAG3` answers on an idle core with ERR = 0: TAG as one integer (R52, R257 step 4). -/
theorem readTag_ready {s : State} (hs : Ready s) : ∃ t, readTag s = some (s.tag, t) ∧ SameData t s ∧ Ready t := by
  have hr (x : State) (h : Ready x) (k : Fin 4) :
      ∃ t, rd (.tag k) x = some (getWord x.tag k.val, t) ∧ SameData t x ∧ Ready t :=
    ⟨_, rd_ready h (.tag k), ⟨rfl, rfl, rfl, rfl, rfl, rfl, rfl, rfl, rfl, rfl, rfl, rfl⟩, h⟩
  obtain ⟨t0, h0, d0, r0⟩ := hr s hs 0
  obtain ⟨t1, h1, d1, r1⟩ := hr t0 r0 1
  obtain ⟨t2, h2, d2, r2⟩ := hr t1 r1 2
  obtain ⟨t3, h3, d3, r3⟩ := hr t2 r2 3
  have d1' := sameData_trans d1 d0
  have d2' := sameData_trans d2 d1'
  refine ⟨t3, ?_, sameData_trans d3 d2', r3⟩
  have e0 : t0.tag = s.tag := d0.2.2.2.2.2.2.2.2.2.1
  have e1 : t1.tag = s.tag := d1'.2.2.2.2.2.2.2.2.2.1
  have e2 : t2.tag = s.tag := d2'.2.2.2.2.2.2.2.2.2.1
  simp only [readTag, h0, h1, h2, h3, e0, e1, e2, Option.bind_eq_bind, Option.bind_some]
  exact congrArg (fun v => some (v, t3)) (append_getWord s.tag)

/-- Several writes on an idle core with ERR = 0: each register written reads back, every other keeps its value. -/
theorem writeRegs_ready (l : List (Reg × Word)) : ∀ {s : State}, Ready s →
    (∀ x ∈ l, x.1.accessClass = .rwIdle) → (l.map Prod.fst).Nodup →
    ∃ t, writeRegs l s = some t ∧ Ready t ∧ (∀ p, ∀ x ∈ l, readReg p t x.1 = x.2 &&& writableBits x.1) ∧
      ∀ p q, q ∉ l.map Prod.fst → readReg p t q = readReg p s q := by
  induction l with
  | nil => exact fun hs _ _ => ⟨_, rfl, hs, by simp, by simp⟩
  | cons x l ih =>
    intro s hs hc hn
    obtain ⟨r, v⟩ := x
    have hr := hc (r, v) (by simp)
    obtain ⟨t, ht, hte, htr⟩ := wr_ready hs r v (.inr hr)
    simp only [List.map_cons, List.nodup_cons] at hn
    obtain ⟨u, hu, hur, hu1, hu2⟩ := ih htr (fun x hx => hc x (by simp [hx])) hn.2
    refine ⟨u, by simp only [writeRegs, ht, Option.bind_eq_bind, Option.bind_some, hu], hur, ?_, ?_⟩
    · intro p x hx
      rcases List.mem_cons.mp hx with h | h
      · subst h
        rw [hu2 p r hn.1, hte, readReg_answer]
        exact readReg_storeReg_same p s r v (.inr hr)
      · exact hu1 p x h
    · intro p q hq
      simp only [List.map_cons, List.mem_cons, not_or] at hq
      rw [hu2 p q hq.2, hte, readReg_answer]
      exact readReg_storeReg_other p s r q v hq.1

/-- Several reads on an idle core with ERR = 0. -/
theorem readRegs_ready (rs : List Reg) : ∀ {s : State}, Ready s →
    ∃ t, readRegs rs s = some (rs.map (readReg Config.params s), t) ∧ SameData t s ∧ Ready t := by
  induction rs with
  | nil => exact fun hs => ⟨_, rfl, ⟨rfl, rfl, rfl, rfl, rfl, rfl, rfl, rfl, rfl, rfl, rfl, rfl⟩, hs⟩
  | cons r rs ih =>
    intro s hs
    obtain ⟨t, ht, hd, hr⟩ := ih (s := answer (.read (readReg Config.params s r) false) s) hs
    refine ⟨t, ?_, hd, hr⟩
    simp only [readRegs, rd_ready hs r, Option.bind_eq_bind, Option.bind_some, ht, List.map_cons]
    congr 3

/-- Word extraction on an idle core with ERR = 0 (R226). -/
theorem readBlockBytes_ready (take : Nat) {s : State} (hs : Ready s) :
    ∃ t, readBlockBytes take s = some (wordBytes (s.block.toList.take take), t) ∧ SameData t s ∧ Ready t := by
  have hl : (((List.finRange 16).take take).map Reg.state).map (readReg Config.params s) =
      s.block.toList.take take := by
    rw [List.map_map, List.map_take]
    congr 1
    apply List.ext_getElem
    · simp
    · intro i _ _
      simp [readReg]
  obtain ⟨t, ht, h⟩ := readRegs_ready (((List.finRange 16).take take).map Reg.state) hs
  refine ⟨t, ?_, h⟩
  simp only [readBlockBytes, ht, hl]
  rfl

/-- Idle cycles up to the completion of the command in flight (R124 `wait`). -/
theorem idleCycles_complete (n : Nat) : ∀ {s : State} {w : Word} {i : Instr}, s.busy = true → s.err = false →
    s.latch = some ⟨w, n⟩ → decodeWord w = .ok i → i.wellFormed = true →
    ∃ t u, idleCycles (n + 1) s = some t ∧ exec i s = .next u ∧ SameData t u ∧ Ready t ∧ t.done = true := by
  induction n with
  | zero =>
    intro s w i hb he hl hd hi
    obtain ⟨u, hu, t1, t2, t3, t4, -⟩ := exec_completes hi s
    refine ⟨u, u, ?_, hu, ⟨rfl, rfl, rfl, rfl, rfl, rfl, rfl, rfl, rfl, rfl, rfl, rfl⟩, ⟨t1, t4.trans he, t3⟩, t2⟩
    simp only [idleCycles, hostCycle]
    rw [clockCycle_completes rfl hb (by simp [latencyOver, hl])]
    simp [presentAccess, runLatched_ok hl hd, hu]
  | succ n ih =>
    intro s w i hb he hl hd hi
    obtain ⟨t, u, h1, h2, h3, h4⟩ := ih (s := countDown s) hb he (by rw [countDown_latch, hl]; rfl) hd hi
    obtain ⟨v, hv, -⟩ := exec_completes hi s
    refine ⟨t, v, ?_, hv, sameData_trans h3 (exec_sameData i ?_ h2 hv), h4⟩
    · rw [idleCycles]
      simp only [hostCycle]
      rw [clockCycle_waits rfl hb (by simp [latencyOver, hl])]
      exact h1
    · exact ⟨rfl, rfl, rfl, rfl, rfl, rfl, rfl, rfl, rfl, rfl, rfl, rfl⟩

end Sys2Proof.Machine
end

