-- ==== Sys2Proof/Laws/Operands.lean ====
section
/-! SUPPORT. The words of the loaded blocks and of NF, the two words of the accumulator of CTR_STEP, and what MIX at four
indices of an array can do. -/

namespace Sys2Proof.Machine

open Sys2Proof

/-- Word `j` of the cipher block (R220). -/
theorem getElem_loadC (s : State) (j : Nat) (hj : j < 16) :
    (loadC s)[j] =
      if h : j < 8 then s.key[j] else if h' : j < 14 then s.nonce[j - 8] else s.ctr[j - 14] := by
  show ((s.key ++ s.nonce) ++ s.ctr)[j]'hj = _
  rw [Vector.getElem_append]
  by_cases h1 : j < 8 + 6
  · rw [dif_pos h1, Vector.getElem_append]
    simp only [show j < 14 from h1, dite_true]
  · rw [dif_neg h1, dif_neg (by omega), dif_neg h1]

/-- Word `j` of the PRNG block (R223). -/
theorem getElem_loadP (p : Params) (s : State) (j : Nat) (hj : j < 16) :
    (loadP p s)[j] =
      if h : j < 4 then p.prime[j] else if h' : j < 12 then s.seed[j - 4] else s.pctr[j - 12] := by
  show ((p.prime ++ s.seed) ++ s.pctr)[j]'hj = _
  rw [Vector.getElem_append]
  by_cases h1 : j < 4 + 8
  · rw [dif_pos h1, Vector.getElem_append]
    simp only [show j < 12 from h1, dite_true]
  · rw [dif_neg h1, dif_neg (by omega), dif_neg h1]

/-- Word `j` of NF (R190). -/
theorem getElem_nonceF (f : Vector Word 2) (nonce : Vector Word 6) (j : Nat) (hj : j < 8) :
    (nonceF f nonce)[j] = if h : j < 6 then nonce[j] else f[j - 6] := by
  show (nonce ++ f)[j]'hj = _
  rw [Vector.getElem_append]

@[simp] theorem accGet_a0 (acc : Word × Word) : accGet .a0 acc = acc.1 := rfl
@[simp] theorem accGet_a1 (acc : Word × Word) : accGet .a1 acc = acc.2 := rfl
@[simp] theorem accSet_a0 (v : Word) (acc : Word × Word) : accSet .a0 v acc = (v, acc.2) := rfl
@[simp] theorem accSet_a1 (v : Word) (acc : Word × Word) : accSet .a1 v acc = (acc.1, v) := rfl
@[simp] theorem accOther_a0 : accOther .a0 = .a1 := rfl
@[simp] theorem accOther_a1 : accOther .a1 = .a0 := rfl

/-- What the subtraction can do (R191 (e) 1). -/
theorem ctrSub_cases (c : CtrClauses) (acc : Word × Word) :
    ctrSub c acc =
      match c.subMinuend, c.subTarget with
      | .a0, .a0 => (acc.1 - acc.2, acc.2)
      | .a0, .a1 => (acc.1, acc.1 - acc.2)
      | .a1, .a0 => (acc.2 - acc.1, acc.2)
      | .a1, .a1 => (acc.1, acc.2 - acc.1) := by
  unfold ctrSub
  cases c.subMinuend <;> cases c.subTarget <;> rfl

/-- What one xor of the xor-swap can do (R191 (e) 1). -/
theorem ctrXorOther_cases (w : AccWord) (acc : Word × Word) :
    ctrXorOther acc w = if w = .a0 then (acc.1 ^^^ acc.2, acc.2) else (acc.1, acc.2 ^^^ acc.1) := by
  cases w <;> rfl

/-- REF-A's three xors exchange the two words (R192, 93_implementation_defined.md G1). -/
theorem ctrXorSwap_refA (acc : Word × Word) : ctrXorSwap refA acc = acc.swap := by
  have h : ∀ x y : Word, x ^^^ y ^^^ (y ^^^ (x ^^^ y)) = y ∧ y ^^^ (x ^^^ y) = x := by
    intro x y
    constructor <;> apply BitVec.eq_of_getLsbD_eq <;> intro j hj <;> simp only [BitVec.getLsbD_xor] <;>
      cases x.getLsbD j <;> cases y.getLsbD j <;> rfl
  exact Prod.ext (h acc.1 acc.2).1 (h acc.1 acc.2).2

/-- What the addition of sel_i can do (R191 (e) 2). -/
theorem ctrAdd_cases (w : AccWord) (sel : Word) (acc : Word × Word) :
    ctrAdd w sel acc = if w = .a0 then (acc.1 + sel, acc.2) else (acc.1, acc.2 + sel) := by
  cases w <;> rfl

/-- What the xor with sel_i can do (R191 (e) 4). -/
theorem ctrXor_cases (w : AccWord) (sel : Word) (acc : Word × Word) :
    ctrXor w sel acc = if w = .a0 then (acc.1 ^^^ sel, acc.2) else (acc.1, acc.2 ^^^ sel) := by
  cases w <;> rfl

/-- A word of an array after one write. -/
theorem getElem_set_fin {n : Nat} (x : Vector Word n) (i j : Fin n) (v : Word) :
    (x.set i v)[j] = if i = j then v else x[j] := by
  simp [Vector.getElem_set, Fin.ext_iff]

/-- MIX at four distinct indices: the four words named (R151). -/
theorem mixAt_at {n : Nat} {a b c d : Fin n} (hab : a ≠ b) (hac : a ≠ c) (had : a ≠ d) (hbc : b ≠ c) (hbd : b ≠ d)
    (hcd : c ≠ d) (x : Vector Word n) :
    ⟨(mixAt a b c d x)[a], (mixAt a b c d x)[b], (mixAt a b c d x)[c], (mixAt a b c d x)[d]⟩ =
      mix ⟨x[a], x[b], x[c], x[d]⟩ := by
  simp only [mixAt, getElem_set_fin, if_true, hab, hac, had, hbc, hbd, hcd, hab.symm, hac.symm, had.symm, hbc.symm,
    hbd.symm, hcd.symm, if_false]

/-- MIX at four indices: every other word. -/
theorem mixAt_other {n : Nat} {a b c d : Fin n} (x : Vector Word n) (j : Fin n) (ha : j ≠ a) (hb : j ≠ b) (hc : j ≠ c)
    (hd : j ≠ d) : (mixAt a b c d x)[j] = x[j] := by
  simp only [mixAt, getElem_set_fin, ha.symm, hb.symm, hc.symm, hd.symm, if_false]

/-- A fold as the sequence of its values. -/
theorem foldl_values {α β : Type} (f : α → β → α) (x : α) (l : List β) (d : β) :
    ∃ acc : Nat → α, acc 0 = x ∧ (∀ i < l.length, acc (i + 1) = f (acc i) (l.getD i d)) ∧
      l.foldl f x = acc l.length := by
  refine ⟨fun n => (l.take n).foldl f x, rfl, ?_, by simp⟩
  intro i hi
  simp only [List.take_add_one, List.getElem?_eq_getElem hi, List.foldl_append, Option.toList_some, List.foldl_cons,
    List.foldl_nil, List.getD, Option.getD_some]

end Sys2Proof.Machine
end

