-- ==== Sys2Proof/Laws/PerInstr.lean ====
section
/-! SUPPORT. The statement made of every command, one lemma per constructor: its word matches the row of the opcode map that
carries its opcode (30_encoding.md R116, R123). -/

namespace Sys2Proof.Laws.EncodeMatches

open Sys2Proof

/-- The word of the command matches the row of the opcode map with the command's opcode (R116). -/
def Statement (i : Instr) : Prop :=
  ∃ r ∈ opcodeRows, opField r.pattern = i.opcode ∧ r.matchesWord (encode i) = true

theorem nop : Statement .nop := by unfold Statement; decide

theorem qr (a b c d : BitVec 4) : Statement (.qr a b c d) := by
  refine ⟨⟨"QR", 0xFF0000FF, 0x01⟩, by decide, rfl, beq_iff_eq.mpr ?_⟩
  apply BitVec.eq_of_getLsbD_eq
  intro j hj
  interval_cases j <;> simp [encode, Instr.operandBits, Instr.opcode]

theorem round : Statement .round := by unfold Statement; decide

theorem perm : Statement .perm := by unfold Statement; decide

theorem zero : Statement .zero := by unfold Statement; decide

theorem ctrd : Statement .ctrd := by unfold Statement; decide

theorem pctrd : Statement .pctrd := by unfold Statement; decide

theorem ksblk : Statement .ksblk := by unfold Statement; decide

theorem pksblk : Statement .pksblk := by unfold Statement; decide

theorem pkeygen : Statement .pkeygen := by unfold Statement; decide

theorem pinit : Statement .pinit := by unfold Statement; decide

theorem pabs (w : BitVec 16) : Statement (.pabs w) := by
  refine ⟨⟨"PABS", 0x0000FFFF, 0x32⟩, by decide, rfl, beq_iff_eq.mpr ?_⟩
  apply BitVec.eq_of_getLsbD_eq
  intro j hj
  interval_cases j <;> simp [encode, Instr.operandBits, Instr.opcode]

theorem pfin : Statement .pfin := by unfold Statement; decide

end Sys2Proof.Laws.EncodeMatches
end

