-- ==== Sys2Proof/Tests/Slice0.lean ====
section
/-! SUPPORT. The model's own tests. Expected values are those of 30_encoding.md and of the vectors of 95_test_vectors.md named in
each comment, computed under the reference settings of that file; and a witness for each statement that has hypotheses. -/

namespace Sys2Proof.Tests

open Sys2Proof Sys2Proof.Machine Sys2Proof.Safety

/-! Decoding: words written out bit by bit from R112 to R116 -/

theorem test_decode_nop : decodeWord 0b00000000000000000000000000000000 = .ok .nop := by decide
theorem test_decode_qr : decodeWord 0b00000000001100100001000000000001 = .ok (.qr 0 1 2 3) := by decide
theorem test_decode_qr_high : decodeWord 0b00000000110011011110111100000001 = .ok (.qr 15 14 13 12) := by decide
theorem test_decode_round : decodeWord 0b00000000000000000000000000000010 = .ok .round := by decide
theorem test_decode_perm : decodeWord 0b00000000000000000000000000000011 = .ok .perm := by decide
theorem test_decode_zero : decodeWord 0b00000000000000000000000000001111 = .ok .zero := by decide
theorem test_decode_ctrd : decodeWord 0b00000000000000000000000000010000 = .ok .ctrd := by decide
theorem test_decode_pctrd : decodeWord 0b00000000000000000000000000010001 = .ok .pctrd := by decide
theorem test_decode_ksblk : decodeWord 0b00000000000000000000000000100000 = .ok .ksblk := by decide
theorem test_decode_pksblk : decodeWord 0b00000000000000000000000000100001 = .ok .pksblk := by decide
theorem test_decode_pkeygen : decodeWord 0b00000000000000000000000000110000 = .ok .pkeygen := by decide
theorem test_decode_pinit : decodeWord 0b00000000000000000000000000110001 = .ok .pinit := by decide
theorem test_decode_pabs : decodeWord 0b01100010011000010000000000110010 = .ok (.pabs 0x6261) := by decide
theorem test_decode_pfin : decodeWord 0b00000000000000000000000000110011 = .ok .pfin := by decide

/-- V-ENC-8, V-ENC-9, V-ENC-15, and the neighbours of the defined opcodes (R117). -/
theorem test_decode_illegal :
    [0x04, 0xFF, 0x80000004, 0x0E, 0x12, 0x1F, 0x22, 0x2F, 0x34].all
      (fun w : Word => decodeWord w == .error .illegalOp) = true := by decide

/-- V-ENC-10, V-ENC-11, V-ENC-12, V-ENC-14, and bit 15 of PABS (R118). -/
theorem test_decode_reserved :
    [0x102, 0x01321001, 0x132, 0x01210001, 0x8032].all
      (fun w : Word => decodeWord w == .error .reservedBits) = true := by decide

theorem test_decodeTableWord : decodeTableWord 32 0x00C84001 = some (.qr 0 4 8 12) := by decide

/-! WellFormed: each of the six equal pairs is refused (R152) -/

theorem test_wellFormed_refuses_aliases :
    [Instr.qr 5 5 1 2, .qr 5 1 5 2, .qr 5 1 2 5, .qr 1 5 5 2, .qr 1 5 2 5, .qr 1 2 5 5].all
      (fun i => !i.wellFormed) = true := by decide

theorem test_wellFormed_accepts : (Instr.qr 0 1 2 15).wellFormed = true ∧ (Instr.pabs 0xFFFF).wellFormed = true := by decide

/-! Helpers and the reference settings of 95_test_vectors.md -/

/-- What a check of the next state answers; false on a stop. -/
def nextIs (o : Host.Outcome State Fault Refusal) (f : State → Bool) : Bool :=
  match o with
  | .next t => f t
  | .fault _ => false
  | .refused _ => false

/-- F_TEST, P_TEST, REF-A, REF-P and BIG. -/
def testParams : Params where
  sigF := #v[0xF0F0F0F0, 0x0F0F0F0F]
  prime := #v[0x7FFFFFFF, 0xFFFFFFFB, 0x00010001, 0x00000101]
  ctr := refA
  prng := refP
  rsOrder := .big

/-- IDX: word i is i. -/
def idx : State := { State.reset with block := Vector.ofFn fun i : Fin 16 => BitVec.ofNat 32 i.val }

/-- STATE0 to STATE3 given, the rest 0. -/
def four (a b c d : Word) : State :=
  { State.reset with block := #v[a, b, c, d, 0, 0, 0, 0, 0, 0, 0, 0, 0, 0, 0, 0] }

/-- The bytes `first`, `first` + 1, …, `n` of them: those of KI, NI and SI. -/
def bytesFrom (n first : Nat) : List Byte := (List.range n).map fun k => BitVec.ofNat 8 (first + k)

/-- KEY = KI, NONCE = NI, SEED = SI. -/
def loaded : State := { State.reset with key := keyOfBytes (bytesFrom 32 0x00), nonce := nonceOfBytes (bytesFrom 24 0x20), seed := seedOfBytes (bytesFrom 32 0x40) }

/-- A core with a command in flight, `wait` cycles before its completion. -/
def inFlight (i : Instr) (wait : Nat) (s : State) : State := { s with busy := true, latch := some ⟨encode i, wait⟩ }

/-- KI, NI and SI as 95_test_vectors.md writes them in words (R84). -/
theorem test_words_of_bytes :
    loaded.key = #v[0x03020100, 0x07060504, 0x0B0A0908, 0x0F0E0D0C, 0x13121110, 0x17161514, 0x1B1A1918, 0x1F1E1D1C] ∧
      loaded.nonce = #v[0x23222120, 0x27262524, 0x2B2A2928, 0x2F2E2D2C, 0x33323130, 0x37363534] ∧
      loaded.seed =
        #v[0x43424140, 0x47464544, 0x4B4A4948, 0x4F4E4D4C, 0x53525150, 0x57565554, 0x5B5A5958, 0x5F5E5D5C] := by
  decide

/-! One test or two per command -/

/-- V-CTL-1. -/
theorem test_nop : nextIs (step (State.reset.withFetchWord 32 0x00)) (fun t => statusWord t == 2 && t.latch == none) = true := by
  decide

/-- V-QR-1. -/
theorem test_qr_column : nextIs (step (idx.withFetchWord 32 0x00C84001)) (fun t =>
    t.block == #v[0xFFF9BFFF, 1, 2, 3, 0xF804DFFF, 5, 6, 7, 0xFFFC0008, 9, 10, 11, 0xFC900003, 13, 14, 15]) = true := by
  decide +kernel

/-- V-QR-4. -/
theorem test_qr_borrow : nextIs (exec (.qr 0 1 2 3) (four 0 0 1 0)) (fun t =>
    t.block[0] == 0xFFFFC7FF && t.block[1] == 0xFF0027FF && t.block[2] == 0 && t.block[3] == 0x7FEC0000) = true := by
  decide +kernel

/-- V-RND-1. -/
theorem test_round : nextIs (exec .round idx) (fun t =>
    t.block == #v[0x4C0BC1F5, 0xFE09CBF1, 0x700FADF6, 0x9E15BFF8, 0x132BA31E, 0xD617EB02, 0xC903C2DE, 0xDFFFBAC2,
      0x689327E2, 0x8B89E7E6, 0x6AC2C7E1, 0xC96977E3, 0x7B14A72B, 0xF827B4D7, 0x752E8396, 0xFA11954C]) = true := by
  decide +kernel

/-- V-PERM-1. -/
theorem test_perm : nextIs (exec .perm idx) (fun t =>
    t.block == #v[0xF42BE3A4, 0x684C3168, 0x7E6A18DF, 0x72E43D2F, 0x0811A951, 0x3BA9A9BB, 0x8567817A, 0xCE7FE617,
      0x5D3B2ABD, 0xC88DD5B9, 0xC5226D84, 0x35419766, 0xB46B6CD5, 0xDB786157, 0xBA84F370, 0x98AF5BD5]) = true := by
  decide +kernel

/-- V-CTL-2, with IRQEN set. -/
theorem test_zero : nextIs (exec .zero { loaded with doneIe := true, ksph := 1, acc := 5 }) (fun t =>
    t.key == Vector.replicate 8 0 && t.seed == Vector.replicate 8 0 && t.ksph == 0 && t.acc == 0 && t.doneIe &&
      statusWord t == 2) = true := by
  decide +kernel

/-- V-CTR-1. -/
theorem test_ctrd_zero : (ctrdState testParams State.reset).ctr = #v[0x82DC8D24, 0x69DA7BAD] := by decide +kernel

/-- V-CTR-5, which is V-CTR-2 from an old counter and phase. -/
theorem test_ctrd_loaded :
    (ctrdState testParams { loaded with ctr := #v[0xDEADBEEF, 1], ksph := 1 }).ctr = #v[0x7B1CA245, 0x63B1A66F] ∧
      phaseWord (ctrdState testParams { loaded with ksph := 1 }) = 0 := by
  decide +kernel

/-- V-PCTR-1. -/
theorem test_pctrd_zero :
    (pctrdState testParams State.reset).pctr = #v[0xB0B1C2F8, 0x219419EC, 0xDF1479E4, 0x1EEE44A1] := by decide +kernel

/-- V-PCTR-2. -/
theorem test_pctrd_loaded :
    (pctrdState testParams { loaded with pph := 3 }).pctr = #v[0xBD4DCEEB, 0x4DEA0069, 0x95A7029F, 0xDF598AE7] ∧
      (pctrdState testParams { loaded with pph := 3 }).pph = 0 := by
  decide +kernel

/-- V-KS-3: word 0 wraps with no carry. -/
theorem test_ksblk_wraps : nextIs (exec .ksblk { State.reset with ctr := #v[0xFFFFFFFF, 5] }) (fun t =>
    t.ctr == #v[0, 5] && t.ksph == 1 && t.block[0] == 0x62CBF247 && t.block[15] == 0x35DAC67E) = true := by
  decide +kernel

/-- V-KS-6: a stale phase. -/
theorem test_ksblk_stale_phase : nextIs (exec .ksblk { loaded with ksph := 1 }) (fun t =>
    t.ctr == #v[0, 1] && t.ksph == 0 && t.block[0] == 0x7289C0F3 && t.block[15] == 0x41194D51) = true := by
  decide +kernel

/-- V-PKS-1, block 1. -/
theorem test_pksblk :
    (pksblkState testParams { State.reset with pctr := #v[0xB0B1C2F8, 0x219419EC, 0xDF1479E4, 0x1EEE44A1] }).block =
      #v[0xA4300B82, 0xCA0BE4EA, 0x6585A4A7, 0x1E24E59B, 0x0E9A8757, 0x030E58ED, 0x2F94454F, 0x6D99EBF3, 0x2FD93933,
        0xDC58EB49, 0xCBAC7364, 0x26B9D84E, 0x6DF81F63, 0x3102E9F1, 0xE8734D7B, 0x9F3C9550] := by
  decide +kernel

/-- V-PKS-1, the counter and phase after block 4. -/
theorem test_pksblk_counter :
    (pksblkState testParams { State.reset with pph := 3, pctr := #v[1, 2, 3, 0xFFFFFFFF] }).pctr = #v[1, 2, 3, 0] ∧
      (pksblkState testParams { State.reset with pph := 3 }).pph = 0 := by
  decide +kernel

/-- V-PKG-1. -/
theorem test_pkeygen_big :
    (pkeygenState testParams loaded).authR = 0xF3C089729DC010D6F1343790B4458D2D ∧
      (pkeygenState testParams loaded).authS = 0x5194C8116B06E6D7B88DFA9AB3238974 := by
  decide +kernel

/-- V-PKG-2. -/
theorem test_pkeygen_little :
    (pkeygenState { testParams with rsOrder := .little } loaded).authR = 0x2D8D45B4903734F1D610C09D7289C0F3 ∧
      (pkeygenState { testParams with rsOrder := .little } loaded).authS = 0x748923B39AFA8DB8D7E6066B11C89451 := by
  decide +kernel

/-- V-POLY-1. -/
theorem test_pinit : nextIs (exec .pinit { State.reset with acc := 0x1234, authR := 7, tag := 9 }) (fun t =>
    t.acc == 0 && t.authR == 7 && t.tag == 9) = true := by decide

/-- V-POLY-5. -/
theorem test_pabs_exact : nextIs
    (exec (.pabs 0xFFFF) { State.reset with acc := 0x3FFFFFFFFFFFFFFFFFFFFFFFFFFFFFFFA, authR := BitVec.allOnes 128 })
    (fun t => t.acc == 0x200000000000000000000000000003FFD) = true := by
  decide +kernel

/-- V-POLY-7: an accumulator the host wrote, at least p. -/
theorem test_pabs_reduces : nextIs (exec (.pabs 0) { State.reset with acc := BitVec.allOnes 130, authR := 1 }) (fun t =>
    t.acc == 4) = true := by decide +kernel

/-- V-FIN-3: reduced before the mask. -/
theorem test_pfin_masks : nextIs (exec .pfin { State.reset with acc := 0x200000000000000000000000000000000 }) (fun t =>
    t.acc == 0x200000000000000000000000000000000 && t.tag == 0) = true := by decide +kernel

/-- V-FIN-4. -/
theorem test_pfin_reduces : nextIs
    (exec .pfin { State.reset with acc := 0x3FFFFFFFFFFFFFFFFFFFFFFFFFFFFFFFA, authS := 10 })
    (fun t => t.acc == 9 && t.tag == 9) = true := by
  decide +kernel

/-! Host procedures -/

/-- P2: the tag of "abc" and its bytes in both orders. -/
theorem test_tag_of_abc :
    messageWords .little [0x61, 0x62, 0x63] = [0x6261, 0x0063] ∧ messageWords .big [0x61, 0x62, 0x63] = [0x6162, 0x6300] ∧
      nextIs (execAll [.pinit, .pabs 0x6261, .pabs 0x0063, .pfin]
          { State.reset with authR := 0x00000001000000010000000F00000003, authS := 0xFFFFFFFF000000000000000000000001 })
        (fun t => t.tag == 0x000DD606005940E3402391D980125AC3) = true ∧
      tagBytes .big 0x000DD606005940E3402391D980125AC3 =
        [0x00, 0x0D, 0xD6, 0x06, 0x00, 0x59, 0x40, 0xE3, 0x40, 0x23, 0x91, 0xD9, 0x80, 0x12, 0x5A, 0xC3] ∧
      tagBytes .little 0x000DD606005940E3402391D980125AC3 =
        [0xC3, 0x5A, 0x12, 0x80, 0xD9, 0x91, 0x23, 0x40, 0xE3, 0x40, 0x59, 0x00, 0x06, 0xD6, 0x0D, 0x00] := by
  decide +kernel

/-- V-KS-1: the keystream bytes of block 1, and "Hello" under them (R226, R229). -/
theorem test_keystream_hello :
    xorBytes [0x48, 0x65, 0x6C, 0x6C, 0x6F] (wordBytes [0x7289C0F3, 0xD610C09D]) = [0xBB, 0xA5, 0xE5, 0x1E, 0xF2] := by
  decide +kernel

/-! Accesses (2.11 of 95_test_vectors.md) -/

/-- V-ERR-1, V-ERR-2, V-ERR-3: STATUS, ERRINFO and `bus_err`. -/
theorem test_command_errors :
    [(0x00000004, 0x14), (0x00000102, 0x24), (0x00210001, 0x34)].all (fun x : Word × Word =>
      let t := busAccess (regWrite .cmd x.1) State.reset
      statusWord t == x.2 && t.errinfo == x.1 && t.busAnswer == some (.write false)) = true := by
  decide +kernel

/-- V-ERR-4: CMD_BUSY while PERM is in flight; it completes, and both bits are set. -/
theorem test_command_busy : nextIs
    (clockCycle ⟨true, some (regWrite .cmd 0x20)⟩ (inFlight .perm 0 State.reset))
    (fun t => statusWord t == 0x46 && t.errinfo == 0x20 && t.busAnswer == some (.write true)) = true := by
  decide +kernel

/-- V-ERR-5: WRITE_BUSY; KEY0 is unchanged. -/
theorem test_write_busy : (busAccess (regWrite (.key 0) 1) (inFlight .perm 0 State.reset)).errinfo = 0x80 ∧
    statusWord (busAccess (regWrite (.key 0) 1) (inFlight .perm 0 State.reset)) = 0x55 ∧
    (busAccess (regWrite (.key 0) 1) (inFlight .perm 0 State.reset)).key[0] = 0 := by
  decide +kernel

/-- V-ERR-6, V-ERR-7, V-ERR-8, V-ERR-9: BAD_ACCESS with the offset. -/
theorem test_bad_access :
    [(⟨true, 0x030, 1, 0xF⟩, 0x30), (⟨false, 0x002, 0, 0xF⟩, 0x02), (⟨true, 0x000, 0, 0xF⟩, 0x00),
      (⟨true, 0x080, 1, 0x3⟩, 0x80)].all (fun x : BusAccess × Word =>
      let t := busAccess x.1 State.reset
      statusWord t == 0x64 && t.errinfo == x.2 && t.key[0] == 0) = true := by
  decide +kernel

/-- V-ERR-10 to V-ERR-12 and V-ERR-15: after an error. -/
theorem test_after_error :
    let e := busAccess (regWrite .cmd 4) State.reset
    (statusWord (busAccess (regWrite .cmd 2) e) = 0x14 ∧
      (busAccess (regWrite .cmd 2) e).busAnswer = some (.write true) ∧
      statusWord (busAccess (regWrite .cmd 0x102) e) = 0x14 ∧ statusWord (busAccess clrErr e) = 0 ∧
      (busAccess clrErr e).errinfo = 0 ∧ (busAccess (regWrite (.key 0) 5) e).key[0] = 5) := by
  decide +kernel

/-- V-ERR-13, V-ERR-14: the order of the checks while BUSY = 1. -/
theorem test_priority_busy :
    (busAccess (regWrite .cmd 4) (inFlight .perm 0 State.reset)).errcode = .cmdBusy ∧
      (busAccess ⟨true, 0x002, 1, 0xF⟩ (inFlight .perm 0 State.reset)).errcode = .badAccess := by
  decide +kernel

/-- V-IRQ-1, V-IRQ-2: the line follows the enabled bits. -/
theorem test_irq :
    nextIs (exec .nop { State.reset with doneIe := true }) (fun t => t.irq && !(busAccess clrDone t).irq) = true ∧
      nextIs (exec .nop { State.reset with errIe := true })
        (fun t => !t.irq && (busAccess (regWrite .cmd 4) t).irq) = true := by
  decide +kernel

/-- V-RST-1, and a write of the reserved bits of ACC4 and PHASE (R53). -/
theorem test_registers :
    readReg testParams State.reset .id = 0x56545831 ∧ readReg testParams State.reset (.sigf 1) = 0x0F0F0F0F ∧
      readReg testParams State.reset (.prime 3) = 0x101 ∧ State.reset.irq = false ∧
      readReg testParams (busAccess (regWrite (.acc 4) 0xFFFFFFFF) State.reset) (.acc 4) = 3 ∧
      readReg testParams (busAccess (regWrite .phase 0xFFFFFFFF) State.reset) .phase = 7 := by
  decide +kernel

/-! Witnesses: states and operands that meet the hypotheses of the statements of the same name -/

theorem witness_EncodeOfDecodeIsTheWord : decodeWord 0xFFFF0032 = .ok (.pabs 0xFFFF) := by decide

theorem witness_EveryWordIsCommandIllegalOrReserved :
    (⟨"PABS", 0x0000FFFF, 0x32⟩ : OpcodeRow) ∈ opcodeRows ∧
      (⟨"PABS", 0x0000FFFF, 0x32⟩ : OpcodeRow).matchesWord 0xFFFF0032 = true ∧
      decodeWord 0x00210001 = .ok (.qr 0 0 1 2) ∧ (Instr.qr 0 0 1 2).wellFormed = false ∧
      decodeWord 0xFFFF0032 = .ok (.pabs 0xFFFF) ∧ decodeWord 0x000000FF = .error .illegalOp ∧
      decodeWord 0x80000033 = .error .reservedBits := by
  decide

theorem witness_RegisterMapIsOneToOne :
    regAt 0x14C = some (.tag 3) ∧ regAt 0x030 = none ∧ unmapped 0x030 = true ∧ regAt 0x1FF = none ∧
      regAt 0x1FC = none ∧ unmapped 0x1FC = true ∧ regAt 0x000 = some .id := by
  decide

/-- One access for each of the four kinds, at the edges of the ranges. -/
theorem witness_BadAccessIsRecordedAndDropped :
    (0x1FF : BitVec 9).toNat % 4 ≠ 0 ∧ (0x7 : BitVec 4) ≠ 0xF ∧ unmapped (0x1FC : BitVec 9).toNat = true ∧
      unmapped (0x03C : BitVec 9).toNat = true ∧ readOnly (0x000 : BitVec 9).toNat = true ∧
      readOnly (0x14C : BitVec 9).toNat = true := by
  decide

theorem witness_WrittenRegisterReadsBackAlone :
    (Reg.irqen).accessClass = .rw ∧ ((Reg.acc 4).accessClass = .rwIdle ∧ State.reset.busy = false) := by decide

theorem witness_LegalReadAnswersTheRegisterAndChangesNothing :
    State.reset.busy = false ∧ (Reg.prime 3).accessClass = .ro ∧ (Reg.cmd).accessClass = .cmd ∧
      (Reg.status).accessClass = .status ∧ (Reg.irqen).accessClass = .rw := by
  decide

theorem witness_ReadWhileBusyIsAFreeValue :
    (inFlight .perm 3 State.reset).busy = true ∧ (Reg.state 15).accessClass = .rwIdle ∧
      (Reg.tag 0).accessClass = .tag ∧ (Reg.errinfo).accessClass ≠ .rwIdle ∧ (Reg.errinfo).accessClass ≠ .tag := by
  decide

theorem witness_ReadyCoreAcceptsEveryWellFormedCommand :
    State.reset.busy = false ∧ State.reset.err = false ∧ (Instr.qr 0 1 2 15).wellFormed = true := by decide

theorem witness_WriteWhileBusyIsRefused :
    (inFlight .perm 3 State.reset).busy = true ∧ (Reg.phase).accessClass = .rwIdle := by decide

theorem witness_AccessWhileBusyLeavesTheCommandItsInputs : (inFlight .perm 3 State.reset).busy = true := by decide

theorem witness_ErrorChangesOnlyTheErrorRecord :
    State.reset.err = false ∧ (busAccess (regWrite .cmd 4) State.reset).err = true ∧
      (busAccess ⟨false, 0x1FF, 0, 0xF⟩ State.reset).err = true := by
  decide +kernel

theorem witness_FirstErrorIsKeptUntilCleared :
    (busAccess (regWrite .cmd 4) State.reset).err = true ∧ (regWrite (.key 0) 1).write = true ∧
      accessedReg (regWrite (.key 0) 1) ≠ some .status ∧ (regRead .status).write ≠ true := by
  decide +kernel

/-- An error state, an access and the idle bus. -/
theorem witness_ResetCycleForcesEveryRegister :
    (⟨false, some (regRead .id)⟩ : BusCycle) :: [] = { State.reset with env := [⟨false, some (regRead .id)⟩] }.env ∧
      (⟨false, none⟩ : BusCycle) :: [idleCycle] = { State.reset with env := [⟨false, none⟩, idleCycle] }.env := by
  decide

/-- V-QR-2, step by step. -/
theorem witness_MixFollowsItsFourSteps :
    (0 : Word) = 0xFFFFFFFF + 1 ∧ (1 : Word) = 1 - 0 ∧ (0 : Word) = (0 : Word).rotateLeft 11 ∧ (0 : Word) = 0 ^^^ 0 ∧
      (0 : Word) = 0 - 0 ∧ (0x00020000 : Word) = (1 : Word).rotateLeft 17 ∧ (0 : Word) = 0 ^^^ 0 ∧
      (0x00020000 : Word) = 0 + 0x00020000 ∧ (0 : Word) = (0 : Word).rotateLeft 13 ∧
      (0 : Word) = 0x00020000 ^^^ 0x00020000 ∧ (0 : Word) = 0 + 0 ∧ (0x00020000 : Word) = 0x00020000 - 0 ∧
      (0x00020000 : Word) = 0 ^^^ 0x00020000 ∧ (0 : Word) = 0 + 0 ∧ (0 : Word) = 0 - 0 ∧
      (0x01000000 : Word) = (0x00020000 : Word).rotateLeft 7 := by
  decide

theorem witness_QrMixesFourStateWords :
    (0 : BitVec 4) ≠ 1 ∧ (0 : BitVec 4) ≠ 2 ∧ (0 : BitVec 4) ≠ 15 ∧ (1 : BitVec 4) ≠ 2 ∧ (1 : BitVec 4) ≠ 15 ∧
      (2 : BitVec 4) ≠ 15 := by
  decide

theorem witness_QrWithEqualIndicesRaisesQrAlias :
    [Instr.qr 5 5 1 2, .qr 5 1 5 2, .qr 5 1 2 5, .qr 1 5 5 2, .qr 1 5 2 5, .qr 1 2 5 5].all
      (fun i => match i with
        | .qr a b c d => a == b || a == c || a == d || b == c || b == d || c == d
        | _ => false) = true := by
  decide

theorem witness_GroupOrderWithinAHalfIsImmaterial :
    columnGroups.reverse.Perm columnGroups ∧ diagonalGroups.reverse.Perm diagonalGroups := by decide

/-- Under either parity, arrays that differ in an unselected word. -/
theorem witness_CounterIgnoresTheUnselectedWords :
    refA.keyOnOdd = true ∧ ({ refA with keyOnOdd := false } : CtrClauses).keyOnOdd = false ∧
      (∀ m : Fin 8, m.val % 2 = 1 → loaded.key[m] = (loaded.key.set 6 0)[m]) ∧
      (∀ m : Fin 8, m.val % 2 = 0 → loaded.key[m] = (loaded.key.set 7 0)[m]) ∧
      loaded.key[0] = (loaded.key.set 6 0)[0] ∧ loaded.key[0] = (loaded.key.set 7 0)[0] := by
  decide

theorem witness_CounterAfterManyKeystreamBlocks : loaded.ksph = 0 := by decide

theorem witness_CounterAfterManyPrngBlocks : loaded.pph = 0 := by decide

theorem witness_PkeygenSplitsTheBlockIntoRAndS :
    testParams.rsOrder = .big ∧ ({ testParams with rsOrder := .little } : Params).rsOrder = .little := by decide

/-- One command of each clause, from an accumulator at p - 1. -/
theorem witness_CommandsKeepTheAccumulatorBelowP :
    ∃ t u v w, exec .pinit { State.reset with acc := 0x3FFFFFFFFFFFFFFFFFFFFFFFFFFFFFFFA } = .next t ∧
      exec (.pabs 1) { State.reset with acc := 0x3FFFFFFFFFFFFFFFFFFFFFFFFFFFFFFFA } = .next u ∧
      exec .pfin { State.reset with acc := 0x3FFFFFFFFFFFFFFFFFFFFFFFFFFFFFFFA } = .next v ∧
      exec .nop { State.reset with acc := 0x3FFFFFFFFFFFFFFFFFFFFFFFFFFFFFFFA } = .next w ∧
      (0x3FFFFFFFFFFFFFFFFFFFFFFFFFFFFFFFA : BitVec 130).toNat < 2 ^ 130 - 5 :=
  ⟨_, _, _, _, rfl, rfl, rfl, rfl, by decide⟩

/-- Each of the three forms of `env`. -/
theorem witness_StepRunsTheLatchedCommand :
    (inFlight .pinit 0 loaded).busy = true ∧ (inFlight .pinit 0 loaded).latch = some ⟨0x31, 0⟩ ∧
      decodeWord 0x31 = .ok .pinit ∧ (Instr.pinit).wellFormed = true ∧ (inFlight .pinit 0 loaded).env = [] ∧
      { inFlight .pinit 0 loaded with env := [idleCycle] }.env = ⟨true, none⟩ :: [] ∧
      { inFlight .pinit 0 loaded with env := [⟨true, some clrDone⟩] }.env = ⟨true, some clrDone⟩ :: [] := by
  decide

theorem witness_KeyNonceSeedAndTagHaveNoOtherWriter :
    Inv { inFlight .perm 1 loaded with env := [⟨true, some clrDone⟩] } ∧
      nextIs (step { inFlight .perm 1 loaded with env := [⟨true, some clrDone⟩] }) (fun _ => true) = true ∧
      (nextCycle { inFlight .perm 1 loaded with env := [⟨true, some clrDone⟩] }).rstN = true ∧
      decodeWord 0x03 ≠ .ok .zero ∧ decodeWord 0x03 ≠ .ok .pfin ∧ accessedReg clrDone = some .status := by
  decide +kernel

theorem witness_KeystreamReadsOnlyItsInputs :
    Ready loaded ∧ Ready { loaded with seed := Vector.replicate 8 0 } ∧
      loaded.key = { loaded with seed := Vector.replicate 8 0 }.key ∧
      loaded.seed = { loaded with key := Vector.replicate 8 0 }.seed := by
  decide

theorem witness_EveryStepKeepsTheInvariant :
    Inv (inFlight .pinit 1 loaded) ∧ step (inFlight .pinit 1 loaded) = .next (inFlight .pinit 0 loaded) :=
  ⟨by decide, rfl⟩

theorem witness_TheCoreNeverStops : Inv (inFlight (.qr 0 1 2 15) 7 loaded) := by decide

theorem witness_CommandInFlightCompletesWithItsWholeEffect :
    Inv { inFlight .perm 7 loaded with env := [⟨true, some (regWrite (.state 0) 1)⟩] } ∧
      NoReset { inFlight .perm 7 loaded with env := [⟨true, some (regWrite (.state 0) 1)⟩] } ∧
      (inFlight .perm 7 loaded).latch = some ⟨0x03, 7⟩ := by
  decide

theorem witness_CompletionWinsOverAClearOfDone :
    Inv { inFlight .nop 0 loaded with env := [⟨true, some (regWrite .status 2)⟩] } ∧
      (inFlight .nop 0 loaded).latch = some ⟨0x00, 0⟩ := by
  decide

theorem witness_RunOfACommandHasItsEffect : Ready loaded ∧ (Instr.qr 0 1 2 15).wellFormed = true := by decide

theorem witness_KsBytesAreTheBlocksOfTheAdvancingCounter : Ready loaded := by decide

theorem witness_TagOfOddMessageIsTagOfPaddedMessage : ([0x01] : List Byte).length % 2 = 1 := by decide

theorem witness_TagOfAnswersThePolynomialTag : Ready loaded := by decide

/-- Two cores, with different registers. -/
theorem witness_DecryptUndoesEncrypt : Ready loaded ∧ Ready State.reset := by decide

theorem witness_BytesPackIntoLittleEndianWords :
    (bytesFrom 32 0xF0).length = 32 ∧ (bytesFrom 24 0xF0).length = 24 := by decide

end Sys2Proof.Tests
end

section
/-! PROOF. What the window reads after reset (10_state.md R59). -/

namespace Sys2Proof.Machine

open Sys2Proof

/-- Every word of a multi-word register that holds 0, also the last one of ACC, cut to two bits (R14, R53). -/
@[simp] theorem getWord_zero {n : Nat} (k : Nat) : getWord 0#n k = 0#32 := by
  simp [getWord]

@[simp] theorem statusWord_reset : statusWord State.reset = 0 := by decide

@[simp] theorem irqenWord_reset : irqenWord State.reset = 0 := by decide

@[simp] theorem phaseWord_reset : phaseWord State.reset = 0 := by decide

/-- A word of a register file at its reset value, the vector of zero words. -/
theorem getElem_replicate_zero {n : Nat} (k : Fin n) : (Vector.replicate n (0 : Word))[k] = 0 :=
  Vector.getElem_replicate k.isLt

/-- Settles O20, register by register: the constants, the three words packed from flags, the register files and the integers
read by words. -/
theorem resetValuesOfTheWindow : Obligations.ResetValuesOfTheWindow := by
  intro r p
  refine ⟨?_, rfl, rfl⟩
  cases r with
  | id | cmd | errinfo | sigf k | prime k => rfl
  | status => exact statusWord_reset
  | irqen => exact irqenWord_reset
  | phase => exact phaseWord_reset
  | state k | key k | nonce k | ctr k | seed k | pctr k => exact getElem_replicate_zero k
  | r k | s k | acc k | tag k => exact getWord_zero k.val

end Sys2Proof.Machine
end

section
/-! PROOF. The read of CMD (20_memory.md R87). -/

namespace Sys2Proof.Machine

open Sys2Proof

/-- `rd REG` where the read answers the register's value: only the answer is recorded (R88). -/
theorem busAccess_regRead_value {s : State} {r : Reg} (hc : (s.busy && r.freeWhileBusy) = false) :
    busAccess (regRead r) s = answer (.read (readReg Config.params s r) false) s :=
  busAccess_read_value rfl (accessedReg_regRead r) hc

/-- A read of CMD is never free, also while BUSY = 1 (R54, R357). -/
@[simp] theorem freeWhileBusy_cmd : Reg.cmd.freeWhileBusy = false := rfl

/-- CMD holds nothing to read (R32, R87). -/
@[simp] theorem readReg_cmd (p : Params) (s : State) : readReg p s .cmd = 0 := rfl

/-- Settles O9: CMD answers its value at any time, and that value is 0. -/
theorem readOfCmdReturnsZero : Obligations.ReadOfCmdReturnsZero := by
  intro s
  have hvalue : (s.busy && Reg.cmd.freeWhileBusy) = false := by simp
  rw [busAccess_regRead_value hvalue, readReg_cmd]
  rfl

end Sys2Proof.Machine
end

section
/-! PROOF. The decoder against the opcode map (30_encoding.md R116 to R119). -/

namespace Sys2Proof

/-- The bits above OP that a row's mask fixes: those reserved in its format, as every pattern is 0 there (R112 to R114). -/
def OpcodeRow.reservedMask (r : OpcodeRow) : Word := r.mask &&& fieldAt (BitVec.allOnes 24) 8

/-- The reserved bits of a command's format (R112, R113, R114). -/
def Instr.reservedMask : Instr → Word
  | .qr _ _ _ _ => fieldAt (BitVec.allOnes 8) 24
  | .pabs _ => fieldAt (BitVec.allOnes 8) 8
  | .nop | .round | .perm | .zero | .ctrd | .pctrd | .ksblk | .pksblk | .pkeygen | .pinit | .pfin =>
    fieldAt (BitVec.allOnes 24) 8

/-- A field is 0 exactly when the word masked to the field is 0. -/
theorem extractLsb'_eq_zero_iff (w : Word) (lo n : Nat) :
    w.extractLsb' lo n = 0 ↔ w &&& fieldAt (BitVec.allOnes n) lo = 0 := by
  constructor <;> intro h <;> apply BitVec.eq_of_getLsbD_eq <;> intro j hj
  · have hbit := congrArg (·.getLsbD (j - lo)) h
    by_cases hlo : lo ≤ j
    · by_cases hn : j - lo < n
      · simpa [hj, hlo, hn] using hbit
      · simp [hn]
    · simp [hlo]
  · have hbit := congrArg (·.getLsbD (lo + j)) h
    by_cases h32 : lo + j < 32
    · simpa [hj, h32] using hbit
    · simp [BitVec.getLsbD_of_ge w (lo + j) (by omega)]

/-- A word is its OP and the 24 bits above. -/
theorem word_eq_iff (x y : Word) : x = y ↔ opField x = opField y ∧ x.extractLsb' 8 24 = y.extractLsb' 8 24 := by
  refine ⟨fun h => h ▸ ⟨rfl, rfl⟩, fun ⟨hop, hup⟩ => ?_⟩
  apply BitVec.eq_of_getLsbD_eq
  intro j hj
  by_cases h8 : j < 8
  · simpa [opField, h8] using congrArg (·.getLsbD j) hop
  · simpa [show j - 8 < 24 by omega, show 8 + (j - 8) = j by omega] using congrArg (·.getLsbD (j - 8)) hup

/-- Every row's mask fixes OP whole, and its pattern holds nothing but OP (R116). -/
theorem opcodeRows_shape : ∀ r ∈ opcodeRows, opField r.mask = BitVec.allOnes 8 ∧ r.pattern.extractLsb' 8 24 = 0 := by
  decide

/-- No two rows have one OP (R116). -/
theorem opcodeRows_injective : ∀ r ∈ opcodeRows, ∀ q ∈ opcodeRows, opField r.pattern = opField q.pattern → r = q := by
  decide

/-- A word matches a row exactly when it has the row's OP and no reserved bit of its format (R116). -/
theorem matchesWord_iff {r : OpcodeRow} (hr : r ∈ opcodeRows) (w : Word) :
    r.matchesWord w = true ↔ opField w = opField r.pattern ∧ w &&& r.reservedMask = 0 := by
  obtain ⟨hmask, hpattern⟩ := opcodeRows_shape r hr
  have hop : opField (w &&& r.mask) = opField w := by
    rw [opField, BitVec.extractLsb'_and]
    show opField w &&& opField r.mask = opField w
    rw [hmask, BitVec.and_allOnes]
  rw [OpcodeRow.matchesWord, beq_iff_eq, word_eq_iff, hop, hpattern, extractLsb'_eq_zero_iff, BitVec.and_assoc,
    OpcodeRow.reservedMask]

/-- Every row is the row of some command: of its OP, and of its format. -/
theorem exists_instr_of_row {r : OpcodeRow} (hr : r ∈ opcodeRows) :
    ∃ i : Instr, i.opcode = opField r.pattern ∧ i.reservedMask = r.reservedMask := by
  fin_cases hr
  exacts [⟨.nop, by decide⟩, ⟨.qr 0 0 0 0, by decide⟩, ⟨.round, by decide⟩, ⟨.perm, by decide⟩, ⟨.zero, by decide⟩,
    ⟨.ctrd, by decide⟩, ⟨.pctrd, by decide⟩, ⟨.ksblk, by decide⟩, ⟨.pksblk, by decide⟩, ⟨.pkeygen, by decide⟩,
    ⟨.pinit, by decide⟩, ⟨.pabs 0, by decide⟩, ⟨.pfin, by decide⟩]

/-- The format N decoder, with the reserved bits as a mask. -/
theorem decodeN_eq (w : Word) (i : Instr) :
    decodeN w i = if w &&& fieldAt (BitVec.allOnes 24) 8 = 0 then .ok i else .error .reservedBits := by
  simp only [decodeN, extractLsb'_eq_zero_iff]

/-- The format Q decoder, with the reserved bits as a mask. -/
theorem decodeQ_eq (w : Word) :
    decodeQ w =
      if w &&& fieldAt (BitVec.allOnes 8) 24 = 0 then
        .ok (.qr (w.extractLsb' 8 4) (w.extractLsb' 12 4) (w.extractLsb' 16 4) (w.extractLsb' 20 4))
      else .error .reservedBits := by
  simp only [decodeQ, extractLsb'_eq_zero_iff]

/-- The format W decoder, with the reserved bits as a mask. -/
theorem decodeW_eq (w : Word) :
    decodeW w =
      if w &&& fieldAt (BitVec.allOnes 8) 8 = 0 then .ok (.pabs (w.extractLsb' 16 16)) else .error .reservedBits := by
  simp only [decodeW, extractLsb'_eq_zero_iff]

/-- A QR word is read by the format Q decoder. -/
theorem decodeWord_of_qr {w : Word} (h : opField w = 0x01) : decodeWord w = decodeQ w := by
  unfold decodeWord
  rw [h]
  rfl

/-- A PABS word is read by the format W decoder. -/
theorem decodeWord_of_pabs {w : Word} (h : opField w = 0x32) : decodeWord w = decodeW w := by
  unfold decodeWord
  rw [h]
  rfl

/-- A word with the OP of a command is a command with that OP, unless it has a reserved bit of the format (R118). -/
theorem decodeWord_of_opcode {w : Word} {i : Instr} (h : opField w = i.opcode) :
    ∃ j : Instr, j.opcode = i.opcode ∧
      decodeWord w = if w &&& i.reservedMask = 0 then .ok j else .error .reservedBits := by
  cases i with
  | qr a b c d => exact ⟨_, by rfl, (decodeWord_of_qr h).trans (decodeQ_eq w)⟩
  | pabs v => exact ⟨_, by rfl, (decodeWord_of_pabs h).trans (decodeW_eq w)⟩
  | nop | round | perm | zero | ctrd | pctrd | ksblk | pksblk | pkeygen | pinit | pfin =>
    refine ⟨_, rfl, ?_⟩
    unfold decodeWord
    rw [h]
    exact decodeN_eq w _

/-- A word with the OP of a row is a command with that OP where it matches the row, and RESERVED_BITS where not (R118). -/
theorem decodeWord_of_row {r : OpcodeRow} (hr : r ∈ opcodeRows) {w : Word} (h : opField w = opField r.pattern) :
    ∃ i : Instr, i.opcode = opField w ∧
      decodeWord w = if r.matchesWord w then .ok i else .error .reservedBits := by
  obtain ⟨k, hop, hmask⟩ := exists_instr_of_row hr
  obtain ⟨i, hi, hw⟩ := decodeWord_of_opcode (h.trans hop.symm)
  refine ⟨i, hi.trans (hop.trans h.symm), ?_⟩
  simp [hw, matchesWord_iff hr, h, hmask]

/-- A word with the OP of no row is ILLEGAL_OP (R117). -/
theorem decodeWord_of_no_row {w : Word} (h : ∀ r ∈ opcodeRows, opField w ≠ opField r.pattern) :
    decodeWord w = .error .illegalOp := by
  have hop : (opField w).toNat ∉ opcodeRows.map fun r => (opField r.pattern).toNat := by
    intro hmem
    obtain ⟨r, hr, he⟩ := List.mem_map.mp hmem
    exact h r hr (BitVec.eq_of_toNat_eq he.symm)
  unfold decodeWord
  split
  case h_14 => rfl
  all_goals
    rename_i hcode
    exact absurd (hcode ▸ by decide) hop

/-- A word is ILLEGAL_OP exactly when no row has its OP (R117). -/
theorem decodeWord_illegalOp_iff (w : Word) :
    decodeWord w = .error .illegalOp ↔ ∀ r ∈ opcodeRows, opField w ≠ opField r.pattern := by
  refine ⟨fun hw r hr hop => ?_, decodeWord_of_no_row⟩
  obtain ⟨i, -, hrow⟩ := decodeWord_of_row hr hop
  cases hm : r.matchesWord w <;> simp [hm, hw] at hrow

/-- The row with a word's OP is the only row the word can match (R116). -/
theorem matchesWord_of_sameOp {r q : OpcodeRow} (hr : r ∈ opcodeRows) (hq : q ∈ opcodeRows) {w : Word}
    (hop : opField w = opField r.pattern) (hm : q.matchesWord w = true) : r = q :=
  opcodeRows_injective r hr q hq (hop.symm.trans ((matchesWord_iff hq w).mp hm).1)

/-- A word is a command exactly when it matches a row (R116). -/
theorem decodeWord_ok_iff (w : Word) : (∃ i, decodeWord w = .ok i) ↔ ∃ r ∈ opcodeRows, r.matchesWord w = true := by
  constructor
  · rintro ⟨i, hi⟩
    have hrow : ∃ r ∈ opcodeRows, opField w = opField r.pattern := by
      by_contra! hno
      simp [decodeWord_of_no_row hno] at hi
    obtain ⟨r, hr, hop⟩ := hrow
    obtain ⟨j, -, hw⟩ := decodeWord_of_row hr hop
    refine ⟨r, hr, ?_⟩
    by_contra hm
    simp [hi, hm] at hw
  · rintro ⟨r, hr, hm⟩
    obtain ⟨i, -, hw⟩ := decodeWord_of_row hr ((matchesWord_iff hr w).mp hm).1
    exact ⟨i, by simpa [hm] using hw⟩

/-- A word is RESERVED_BITS exactly when a row has its OP and no row matches it (R118): it is then neither a command nor
ILLEGAL_OP, and the decoder has no fourth answer. -/
theorem decodeWord_reservedBits_iff (w : Word) :
    decodeWord w = .error .reservedBits ↔
      (∃ r ∈ opcodeRows, opField w = opField r.pattern) ∧ ∀ r ∈ opcodeRows, r.matchesWord w = false := by
  have hok := decodeWord_ok_iff w
  have hillegal := decodeWord_illegalOp_iff w
  constructor
  · intro hw
    refine ⟨?_, ?_⟩
    · by_contra! hno
      simpa [hw] using hillegal.mpr hno
    · intro r hr
      by_contra hm
      simpa [hw] using hok.mpr ⟨r, hr, by simpa using hm⟩
  · rintro ⟨⟨r, hr, hop⟩, hnone⟩
    obtain ⟨i, -, hw⟩ := decodeWord_of_row hr hop
    simpa [hnone r hr] using hw

/-- Only QR is refused by value (R119, R152). -/
theorem eq_qr_of_not_wellFormed {i : Instr} (h : i.wellFormed = false) : ∃ a b c d, i = .qr a b c d := by
  cases i with
  | qr a b c d => exact ⟨a, b, c, d, rfl⟩
  | nop | round | perm | zero | ctrd | pctrd | ksblk | pksblk | pkeygen | pinit | pabs | pfin => cases h

/-- Settles O3, a lemma for each clause: the three answers of the decoder by the rows, the row unique, QR's refusal by value. -/
theorem everyWordIsCommandIllegalOrReserved : Obligations.EveryWordIsCommandIllegalOrReserved := fun w =>
  ⟨decodeWord_ok_iff w, fun _ hr _ hq hrm => matchesWord_of_sameOp hr hq ((matchesWord_iff hr w).mp hrm).1,
    decodeWord_illegalOp_iff w, decodeWord_reservedBits_iff w, fun _ _ => eq_qr_of_not_wellFormed⟩

end Sys2Proof
end

section
/-! PROOF. A write to CMD, in the order of its checks (30_encoding.md R120). -/

namespace Sys2Proof.Machine

open Sys2Proof Sys2Proof.Safety

/-- A refused write is the record of its error, and nothing else (R303). -/
theorem refuseWrite_eq_afterError (code : ErrCode) (info : Word) (s : State) :
    refuseWrite code info s = afterError code info (.write code.busErr) s := by
  cases h : s.err <;> simp [refuseWrite_eq, raiseError, afterError, answer, h]

/-- A command carries the OP of its word (R111). -/
theorem opcode_of_decodeWord {w : Word} {i : Instr} (hi : decodeWord w = .ok i) : i.opcode = opField w := by
  obtain ⟨r, hr, hm⟩ := (decodeWord_ok_iff w).mp ⟨i, hi⟩
  obtain ⟨j, hj, hw⟩ := decodeWord_of_row hr ((matchesWord_iff hr w).mp hm).1
  have hij : i = j := by simpa [hi, hm] using hw
  rw [hij, hj]

/-- QR carries the four index fields of its word (R113). -/
theorem operands_of_decodeQ {w : Word} {i : Instr} (hi : decodeQ w = .ok i) :
    i = .qr (w.extractLsb' 8 4) (w.extractLsb' 12 4) (w.extractLsb' 16 4) (w.extractLsb' 20 4) := by
  unfold decodeQ at hi
  split at hi
  · exact (Except.ok.inj hi).symm
  · cases hi

/-- The last check of R120, on the word: it fails where the command is not well-formed, so on QR alone (R119, R152). -/
theorem aliased_of_decodeWord {w : Word} {i : Instr} (hi : decodeWord w = .ok i) :
    (opField w == 0x01 &&
      !indicesDistinct (w.extractLsb' 8 4) (w.extractLsb' 12 4) (w.extractLsb' 16 4) (w.extractLsb' 20 4)) =
        !i.wellFormed := by
  by_cases hop : opField w = 0x01
  · rw [decodeWord_of_qr hop] at hi
    simp [operands_of_decodeQ hi, Instr.wellFormed, hop]
  · have hwf : i.wellFormed = true := by
      by_contra hill
      obtain ⟨a, b, c, d, rfl⟩ := eq_qr_of_not_wellFormed (by simpa using hill)
      exact hop (opcode_of_decodeWord hi).symm
    rw [beq_eq_false_iff_ne.mpr hop, hwf]
    rfl

/-- The check of OP on the rows. -/
theorem all_rows_otherOp (w : Word) :
    (opcodeRows.all fun r => opField w != opField r.pattern) = true ↔ decodeWord w = .error .illegalOp := by
  simp [decodeWord_illegalOp_iff]

/-- The check of the reserved bits on the rows, once a row has the word's OP. -/
theorem all_rows_noMatch (w : Word) :
    (opcodeRows.all fun r => !r.matchesWord w) = true ↔ ¬∃ i, decodeWord w = .ok i := by
  simp [decodeWord_ok_iff]

/-- Settles O13, check by check: ERR, BUSY, and then the decoder's three answers. -/
theorem commandWriteFollowsThePriorityOrder : Obligations.CommandWriteFollowsThePriorityOrder := by
  intro s v
  refine ⟨Config.latency (opField v) s.draws, s.draws + 1, ?_⟩
  rw [busAccess_write_cmd rfl (accessedReg_regWrite .cmd v) rfl]
  show writeCmd v s = _
  unfold writeCmd
  by_cases he : s.err = true
  · rw [if_pos he, if_pos he]
    rfl
  rw [if_neg he, if_neg he]
  by_cases hb : s.busy = true
  · rw [if_pos hb, if_pos hb]
    exact refuseWrite_eq_afterError .cmdBusy v s
  rw [if_neg hb, if_neg hb]
  have hother := all_rows_otherOp v
  have hnone := all_rows_noMatch v
  cases hd : decodeWord v with
  | error e =>
    cases e with
    | illegalOp =>
      rw [if_pos (hother.mpr hd)]
      exact refuseWrite_eq_afterError .illegalOp v s
    | reservedBits =>
      rw [if_neg (mt hother.mp (by simp [hd])), if_pos (hnone.mpr (by simp [hd]))]
      exact refuseWrite_eq_afterError .reservedBits v s
  | ok i =>
    rw [if_neg (mt hother.mp (by simp [hd])), if_neg (mt hnone.mp (by simp [hd])), aliased_of_decodeWord hd]
    change (if i.wellFormed = true then _ else _) = _
    cases i.wellFormed with
    | false => exact refuseWrite_eq_afterError .qrAlias v s
    | true => rfl

end Sys2Proof.Machine
end

section
/-! PROOF. The mixing primitive, statement by statement (40_arx.md R150). -/

namespace Sys2Proof.Machine

open Sys2Proof

/-- Settles O22: the four rotations of R150, by 11, 17, 13 and 7, are the core's own (R13), and the values named by the four
steps are then the ones MIX computes in turn. -/
theorem mixFollowsItsFourSteps : Obligations.MixFollowsItsFourSteps := by
  intro A B C D A1 B1 C1 D1 A2 B2 C2 D2 A3 B3 C3 D3 A4 B4 C4 D4
    hA1 hB1 hC1 hD1 hA2 hB2 hC2 hD2 hA3 hB3 hC3 hD3 hA4 hB4 hC4 hD4
  rw [← rotl_eq_rotateLeft C 11 (by decide)] at hC1
  rw [← rotl_eq_rotateLeft B1 17 (by decide)] at hB2
  rw [← rotl_eq_rotateLeft A2 13 (by decide)] at hA3
  rw [← rotl_eq_rotateLeft D3 7 (by decide)] at hD4
  subst hA1 hB1 hC1 hD1 hA2 hB2 hC2 hD2 hA3 hB3 hC3 hD3 hA4 hB4 hC4 hD4
  rfl

end Sys2Proof.Machine
end

section
/-! PROOF. The keystream generators, word by word (43_keystream.md R220 to R225). -/

namespace Sys2Proof.Machine

open Sys2Proof

/-- What KSBLK leaves (R221, R222), as `pksblkState` is what PKSBLK leaves. -/
def ksblkState (s : State) : State :=
  complete
    { s with
      block := permF (loadC s)
      ctr := s.ctr.set s.ksph (s.ctr[s.ksph] + 1)
      ksph := 1 - s.ksph }

theorem exec_ksblk (s : State) : exec .ksblk s = .next (ksblkState s) := rfl

@[simp] theorem ksblkState_block (s : State) : (ksblkState s).block = permF (loadC s) := rfl
@[simp] theorem ksblkState_key (s : State) : (ksblkState s).key = s.key := rfl
@[simp] theorem ksblkState_nonce (s : State) : (ksblkState s).nonce = s.nonce := rfl
@[simp] theorem ksblkState_ctr (s : State) :
    (ksblkState s).ctr = s.ctr.set s.ksph (s.ctr[s.ksph] + 1) := rfl
@[simp] theorem ksblkState_ksph (s : State) : (ksblkState s).ksph = 1 - s.ksph := rfl

theorem exec_pksblk (s : State) : exec .pksblk s = .next (pksblkState Config.params s) := rfl

@[simp] theorem pksblkState_block (p : Params) (s : State) : (pksblkState p s).block = permF (loadP p s) := rfl
@[simp] theorem pksblkState_seed (p : Params) (s : State) : (pksblkState p s).seed = s.seed := rfl
@[simp] theorem pksblkState_pctr (p : Params) (s : State) :
    (pksblkState p s).pctr = s.pctr.set s.pph (s.pctr[s.pph] + 1) := rfl
@[simp] theorem pksblkState_pph (p : Params) (s : State) : (pksblkState p s).pph = s.pph + 1 := rfl

/-- KSPH as a number after the flip (R222). -/
theorem val_one_sub (k : Fin 2) : (1 - k).val = 1 - k.val := by
  revert k
  decide

/-- A counter after one word of it is incremented (R222, R225). -/
theorem getElem_increment {n : Nat} (x : Vector Word n) (k j : Fin n) :
    (x.set k (x[k] + 1))[j] = if j = k then x[j] + 1 else x[j] := by
  rw [getElem_set_fin]
  by_cases h : j = k
  · subst h
    simp
  · simp [h, Ne.symm h]

/-- Settles O33: the words of `loadC` are those of R220, and the counter is advanced in the word KSPH names. -/
theorem ksblkMakesABlockAndAdvancesTheCounter : Obligations.KsblkMakesABlockAndAdvancesTheCounter := by
  intro s
  refine ⟨ksblkState s, loadC s, exec_ksblk s, ksblkState_block s, ?key, ?nonce, ?ctr,
    fun j => getElem_increment s.ctr s.ksph j, val_one_sub s.ksph, rfl⟩
  case key =>
    intro j
    rw [getElem_loadC, dif_pos j.isLt]
    rfl
  case nonce =>
    intro j
    rw [getElem_loadC, dif_neg (by omega), dif_pos (by omega)]
    simp
  case ctr =>
    intro j
    rw [getElem_loadC, dif_neg (by omega), dif_neg (by omega)]
    simp

/-- Settles O35: the words of `loadP` are those of R223, and the counter is advanced in the word PPH names. -/
theorem pksblkMakesABlockAndAdvancesTheCounter : Obligations.PksblkMakesABlockAndAdvancesTheCounter := by
  intro p s
  refine ⟨loadP p s, exec_pksblk s, pksblkState_block p s, ?prime, ?seed, ?pctr,
    fun j => getElem_increment s.pctr s.pph j, Fin.val_add s.pph 1, rfl⟩
  case prime =>
    intro j
    rw [getElem_loadP, dif_pos j.isLt]
    rfl
  case seed =>
    intro j
    rw [getElem_loadP, dif_neg (by omega), dif_pos (by omega)]
    simp
  case pctr =>
    intro j
    rw [getElem_loadP, dif_neg (by omega), dif_neg (by omega)]
    simp

end Sys2Proof.Machine
end

section
/-! PROOF. What `run` and the block loop of the host answer on an idle core with ERR = 0 (30_encoding.md R124, R125;
43_keystream.md R226 to R228). -/

namespace Sys2Proof.Machine

open Sys2Proof Sys2Proof.Safety

/-- Agreement on the data registers and PHASE is reflexive. -/
theorem sameData_refl (s : State) : SameData s s :=
  ⟨rfl, rfl, rfl, rfl, rfl, rfl, rfl, rfl, rfl, rfl, rfl, rfl⟩

/-- A write of a command to CMD on an idle core with ERR = 0: accepted (R300). -/
theorem wr_cmd_ready {s : State} (hs : Ready s) {v : Word} {i : Instr} (hd : decodeWord v = .ok i)
    (hi : i.wellFormed = true) : wr .cmd v s = some (answer (.write false) (accept v s)) := by
  obtain ⟨hb, he, -⟩ := hs
  have hw : writeCmd v s = answer (.write false) (accept v s) := by
    simp [writeCmd, he, hb, hd, hi]
  have ha : busAccess (regWrite .cmd v) s = writeCmd v s :=
    busAccess_write_cmd rfl (accessedReg_regWrite .cmd v) rfl
  simp [wr, hostCycle, clockCycle_idle, hb, presentAccess, ha, hw]

/-- `run X` on an idle core with ERR = 0: the data registers and PHASE as X's completion leaves them (R125). -/
theorem run_ready {s u : State} (hs : Ready s) {i : Instr} (hd : decodeWord (encode i) = .ok i)
    (hi : i.wellFormed = true) (hu : exec i s = .next u) :
    ∃ t, run i s = some t ∧ SameData t u ∧ Ready t ∧ t.done = true := by
  have hwr := wr_cmd_ready hs hd hi
  obtain ⟨-, he, -⟩ := hs
  obtain ⟨t, v, ht, hv, hsame, hr, hdone⟩ :=
    idleCycles_complete _ (s := answer (.write false) (accept (encode i) s)) rfl he rfl hd hi
  have haccept : SameData (answer (.write false) (accept (encode i) s)) s := sameData_refl s
  have hvu : SameData v u := exec_sameData i haccept hv hu
  refine ⟨t, ?_, sameData_trans hsame hvu, hr, hdone⟩
  simpa [run, hwr, waitIdle] using ht

/-- The words of the `n` blocks that a command leaves in STATE, one after another from `s`, where `next` is the state
the command leaves (R228). -/
def blockWords (next : State → State) (n : Nat) (s : State) : List Word :=
  (List.range n).flatMap fun j => (next^[j + 1] s).block.toList

theorem blockWords_zero (next : State → State) (s : State) : blockWords next 0 s = [] := rfl

theorem blockWords_succ (next : State → State) (n : Nat) (s : State) :
    blockWords next (n + 1) s = (next s).block.toList ++ blockWords next n (next s) := by
  simp [blockWords, List.range_succ_eq_map, List.flatMap_map]

/-- A number of whole blocks, serialised block by block (R16, R228). -/
theorem wordBytes_blockWords (next : State → State) (n : Nat) (s : State) :
    wordBytes (blockWords next n s) =
      (List.range n).flatMap fun j => wordBytes (next^[j + 1] s).block.toList :=
  List.flatMap_assoc

section
variable {cmd : Instr} {next : State → State} (hd : decodeWord (encode cmd) = .ok cmd) (hwf : cmd.wellFormed = true)
  (hnext : ∀ s, exec cmd s = .next (next s))
include hd hwf hnext

/-- The block loop reads the first `nwords` words of the blocks; `r` is a state with the same data (R227, R230). -/
theorem blockLoop_ready (blocks : Nat) : ∀ (nwords : Nat) {s r : State}, Ready s → SameData s r →
    ∃ t, blockLoop cmd blocks nwords s = some (wordBytes ((blockWords next blocks r).take nwords), t) ∧
      SameData t (next^[blocks] r) ∧ Ready t := by
  induction blocks with
  | zero =>
    intro nwords s r hs hsr
    exact ⟨s, by simp [blockLoop, blockWords_zero, wordBytes], hsr, hs⟩
  | succ blocks ih =>
    intro nwords s r hs hsr
    obtain ⟨t, hrun, hts, htr, -⟩ := run_ready hs hd hwf (hnext s)
    have htn : SameData t (next r) := sameData_trans hts (exec_sameData cmd hsr (hnext s) (hnext r))
    obtain ⟨u, hread, hut, hur⟩ := readBlockBytes_ready (min 16 nwords) htr
    obtain ⟨v, hloop, hvn, hvr⟩ := ih (nwords - 16) hur (sameData_trans hut htn)
    have hbytes : wordBytes (t.block.toList.take (min 16 nwords)) ++
          wordBytes ((blockWords next blocks (next r)).take (nwords - 16)) =
        wordBytes ((blockWords next (blocks + 1) r).take nwords) := by
      obtain ⟨hblock, -⟩ := htn
      rw [blockWords_succ, List.take_append, hblock, Vector.length_toList, List.take_eq_take_min (i := nwords),
        Vector.length_toList, Nat.min_comm nwords]
      exact List.flatMap_append.symm
    refine ⟨v, ?_, hvn, hvr⟩
    simp [blockLoop, hrun, hread, hloop, hbytes]

/-- R228: the first `L` bytes of the ⌈L/64⌉ whole blocks. -/
theorem blockBytes_ready (L : Nat) {s : State} (hs : Ready s) :
    ∃ t, blockBytes cmd L s = some ((wordBytes (blockWords next ((L + 63) / 64) s)).take L, t) ∧
      SameData t (next^[(L + 63) / 64] s) ∧ Ready t := by
  have hblocks : ((L + 3) / 4 + 15) / 16 = (L + 63) / 64 := by omega
  obtain ⟨t, hloop, ht⟩ := blockLoop_ready hd hwf hnext ((L + 63) / 64) ((L + 3) / 4) hs (sameData_refl s)
  refine ⟨t, ?_, ht⟩
  simp [blockBytes, hblocks, hloop, wordBytes_take, List.take_take, show min L (4 * ((L + 3) / 4)) = L by omega]

end

end Sys2Proof.Machine
end

section
/-! PROOF. The keystream and PRNG procedures of the host (43_keystream.md R222, R225, R227, R228, R230, R231). -/

namespace Sys2Proof.Machine

open Sys2Proof Sys2Proof.Safety

/-- The registers that the writes of a multi-word register reach. -/
theorem map_fst_wordWrites {n : Nat} (reg : Fin n → Reg) (ws : Vector Word n) :
    (wordWrites reg ws).map Prod.fst = (List.finRange n).map reg := by
  simp [wordWrites]

/-- A register file whose words read back as they were written holds them. -/
theorem file_eq_of_readBack {n : Nat} {reg : Fin n → Reg} {ws file : Vector Word n} {p : Params} {t : State}
    (hfile : ∀ k, readReg p t (reg k) = file[k]) (hbits : ∀ k, writableBits (reg k) = BitVec.allOnes 32)
    (hback : ∀ x ∈ wordWrites reg ws, readReg p t x.1 = x.2 &&& writableBits x.1) : file = ws := by
  apply Vector.ext
  intro k hk
  have hmem : (reg ⟨k, hk⟩, ws[k]) ∈ wordWrites reg ws :=
    List.mem_map.mpr ⟨⟨k, hk⟩, List.mem_finRange _, rfl⟩
  have hword := hback _ hmem
  rw [hfile, hbits, BitVec.and_allOnes] at hword
  exact hword

/-- KSPH is 0 where PHASE reads 0 (R39). -/
theorem ksph_eq_zero_of_phaseWord {s : State} (h : phaseWord s = 0) : s.ksph = 0 := by
  have hn : (s.ksph.val + 2 * s.pph.val) % 2 ^ 32 = 0 := by
    simpa [phaseWord] using congrArg BitVec.toNat h
  apply Fin.ext
  show s.ksph.val = 0
  omega

/-- Writes of distinct RW-idle registers on an idle core with ERR = 0: each register reads back. -/
theorem writeRegs_readBack {s : State} (hs : Ready s) {l : List (Reg × Word)} {rs : List Reg}
    (hregs : l.map Prod.fst = rs) (hidle : ∀ r ∈ rs, r.accessClass = .rwIdle) (hdistinct : rs.Nodup) :
    ∃ t, writeRegs l s = some t ∧ Ready t ∧
      ∀ x ∈ l, readReg Config.params t x.1 = x.2 &&& writableBits x.1 := by
  subst hregs
  obtain ⟨t, ht, hr, hback, -⟩ := writeRegs_ready l hs (fun x hx => hidle _ (List.mem_map_of_mem hx)) hdistinct
  exact ⟨t, ht, hr, hback Config.params⟩

/-- The writes that begin KS_BYTES (R227). -/
theorem ksBytes_writes {s : State} (hs : Ready s) (K : Vector Word 8) (N : Vector Word 6) (C : Vector Word 2) :
    ∃ t, writeRegs (wordWrites .key K ++ wordWrites .nonce N ++ wordWrites .ctr C ++ [(.phase, 0)]) s = some t ∧
      Ready t ∧ t.key = K ∧ t.nonce = N ∧ t.ctr = C ∧ t.ksph = 0 := by
  have hregs : (wordWrites .key K ++ wordWrites .nonce N ++ wordWrites .ctr C ++ [(Reg.phase, 0)]).map Prod.fst =
      (List.finRange 8).map Reg.key ++ (List.finRange 6).map Reg.nonce ++ (List.finRange 2).map Reg.ctr ++
        [.phase] := by
    simp [map_fst_wordWrites]
  obtain ⟨t, ht, hr, hback⟩ := writeRegs_readBack hs hregs (by decide) (by decide)
  simp only [List.forall_mem_append, List.forall_mem_singleton] at hback
  obtain ⟨⟨⟨hkey, hnonce⟩, hctr⟩, hphase⟩ := hback
  exact ⟨t, ht, hr, file_eq_of_readBack (fun _ => rfl) (fun _ => rfl) hkey,
    file_eq_of_readBack (fun _ => rfl) (fun _ => rfl) hnonce, file_eq_of_readBack (fun _ => rfl) (fun _ => rfl) hctr,
    ksph_eq_zero_of_phaseWord hphase⟩

/-- The cipher counter `n` blocks after `C`, from KSPH = 0: the words take turns, CTR[0] first (R222). -/
def ctrAfter (C : Vector Word 2) (n : Nat) : Vector Word 2 :=
  #v[C[0] + BitVec.ofNat 32 ((n + 1) / 2), C[1] + BitVec.ofNat 32 (n / 2)]

theorem ctrAfter_zero (C : Vector Word 2) : ctrAfter C 0 = C := by
  apply Vector.ext
  intro j hj
  interval_cases j <;> simp [ctrAfter]

/-- Block `n` advances the word that the parity of `n` names (R222). -/
theorem ctrAfter_succ (C : Vector Word 2) {n : Nat} {k : Fin 2} (hk : k.val = n % 2) :
    ctrAfter C (n + 1) = (ctrAfter C n).set k ((ctrAfter C n)[k] + 1) := by
  rcases Nat.even_or_odd' n with ⟨m, rfl | rfl⟩
  · have h0 : k = 0 := Fin.ext (by rw [hk]; exact Nat.mul_mod_right 2 m)
    have hceil : (2 * m + 1 + 1) / 2 = (2 * m + 1) / 2 + 1 := by omega
    have hfloor : (2 * m + 1) / 2 = 2 * m / 2 := by omega
    simp [h0, ctrAfter, hceil, hfloor, BitVec.ofNat_add, BitVec.add_assoc]
  · have h1 : k = 1 := Fin.ext (by rw [hk]; exact Nat.mul_add_mod 2 m 1)
    have hceil : (2 * m + 1 + 1 + 1) / 2 = (2 * m + 1 + 1) / 2 := by omega
    have hfloor : (2 * m + 1 + 1) / 2 = (2 * m + 1) / 2 + 1 := by omega
    simp [h1, ctrAfter, hceil, hfloor, BitVec.ofNat_add, BitVec.add_assoc]

/-- What `n` KSBLK commands leave from KSPH = 0 (R222). -/
theorem iterate_ksblkState {s : State} (hs : s.ksph = 0) (n : Nat) :
    (ksblkState^[n] s).key = s.key ∧ (ksblkState^[n] s).nonce = s.nonce ∧
      (ksblkState^[n] s).ctr = ctrAfter s.ctr n ∧ (ksblkState^[n] s).ksph.val = n % 2 := by
  induction n with
  | zero => exact ⟨rfl, rfl, (ctrAfter_zero s.ctr).symm, congrArg Fin.val hs⟩
  | succ n ih =>
    obtain ⟨hkey, hnonce, hctr, hksph⟩ := ih
    rw [Function.iterate_succ_apply', ksblkState_key, ksblkState_nonce, ksblkState_ctr, ksblkState_ksph, hctr,
      val_one_sub]
    exact ⟨hkey, hnonce, (ctrAfter_succ s.ctr hksph).symm, by omega⟩

/-- Block `n` of the keystream, from KSPH = 0: permuted from the counter the blocks before it leave (R221, R222). -/
theorem iterate_ksblkState_block {s : State} (hs : s.ksph = 0) (n : Nat) :
    (ksblkState^[n + 1] s).block = permF (s.key ++ s.nonce ++ ctrAfter s.ctr n) := by
  obtain ⟨hkey, hnonce, hctr, -⟩ := iterate_ksblkState hs n
  rw [Function.iterate_succ_apply', ksblkState_block, loadC, hkey, hnonce, hctr]

/-- Settles O54: the registers are written, and the block loop then reads the blocks of the advancing counter. -/
theorem ksBytesAreTheBlocksOfTheAdvancingCounter : Obligations.KsBytesAreTheBlocksOfTheAdvancingCounter := by
  intro K N C L s hs
  obtain ⟨u, hu, hur, rfl, rfl, rfl, hksph⟩ := ksBytes_writes hs K N C
  obtain ⟨t, hbytes, hdata, htr⟩ := blockBytes_ready (cmd := .ksblk) rfl rfl exec_ksblk L hur
  obtain ⟨-, htkey, htnonce, htctr, -, -, -, -, -, -, htksph, -⟩ := hdata
  obtain ⟨hkey, hnonce, hctr, hphase⟩ := iterate_ksblkState hksph ((L + 63) / 64)
  refine ⟨t, ?_, htctr.trans hctr, (congrArg Fin.val htksph).trans hphase, htkey.trans hkey,
    htnonce.trans hnonce, htr⟩
  simp only [wordBytes_blockWords, iterate_ksblkState_block hksph] at hbytes
  rw [ksBytes, hu]
  exact hbytes

/-- The inputs of PKSBLK but for the configuration (R231). -/
abbrev SamePrngInputs (s t : State) : Prop := s.seed = t.seed ∧ s.pctr = t.pctr ∧ s.pph = t.pph

/-- PKSBLK reads its inputs alone, and leaves equal inputs for the next block (R224, R225). -/
theorem pksblkState_congr (p : Params) {s t : State} (h : SamePrngInputs s t) :
    (pksblkState p s).block = (pksblkState p t).block ∧ SamePrngInputs (pksblkState p s) (pksblkState p t) := by
  obtain ⟨hseed, hpctr, hpph⟩ := h
  simp [SamePrngInputs, loadP, hseed, hpctr, hpph]

/-- The blocks of PKSBLK read its inputs alone. -/
theorem blockWords_pksblkState_congr (p : Params) (n : Nat) : ∀ {s t : State}, SamePrngInputs s t →
    blockWords (pksblkState p) n s = blockWords (pksblkState p) n t := by
  induction n with
  | zero => exact fun _ => rfl
  | succ n ih =>
    intro s t h
    obtain ⟨hblock, hnext⟩ := pksblkState_congr p h
    rw [blockWords_succ, blockWords_succ, hblock, ih hnext]

/-- KSBLK reads KEY, NONCE, CTR and KSPH alone (R221, R222). -/
theorem ksblkState_congr {s t : State} (hkey : s.key = t.key) (hnonce : s.nonce = t.nonce) (hctr : s.ctr = t.ctr)
    (hksph : s.ksph = t.ksph) :
    (ksblkState s).block = (ksblkState t).block ∧ (ksblkState s).ctr = (ksblkState t).ctr ∧
      (ksblkState s).ksph = (ksblkState t).ksph := by
  simp [loadC, hkey, hnonce, hctr, hksph]

/-- The write of SEED that begins PRNG_BYTES (R230). -/
theorem prngBytes_writes {s : State} (hs : Ready s) (seed : Vector Word 8) :
    ∃ t, writeRegs (wordWrites .seed seed) s = some t ∧ Ready t ∧ t.seed = seed := by
  obtain ⟨t, ht, hr, hback⟩ := writeRegs_readBack hs (map_fst_wordWrites Reg.seed seed) (by decide) (by decide)
  exact ⟨t, ht, hr, file_eq_of_readBack (fun _ => rfl) (fun _ => rfl) hback⟩

/-- PRNG_BYTES on an idle core with ERR = 0: the blocks from the seed, its derived counter and PPH = 0 (R202, R230). -/
theorem prngBytes_ready {s : State} (hs : Ready s) (seed : Vector Word 8) (L : Nat) :
    ∃ r t, prngBytes seed L s =
        some ((wordBytes (blockWords (pksblkState Config.params) ((L + 63) / 64) r)).take L, t) ∧
      r.seed = seed ∧ r.pctr = prngDerive Config.params.prng seed Config.params.prime ∧ r.pph = 0 := by
  obtain ⟨u, hu, hur, rfl⟩ := prngBytes_writes hs seed
  obtain ⟨r, hrun, hdata, hrr, -⟩ := run_ready (i := .pctrd) hur rfl rfl rfl
  obtain ⟨t, hbytes, -⟩ := blockBytes_ready (cmd := .pksblk) rfl rfl exec_pksblk L hrr
  obtain ⟨-, -, -, -, hseed, hpctr, -, -, -, -, -, hpph⟩ := hdata
  refine ⟨r, t, ?_, hseed, hpctr, hpph⟩
  simp [prngBytes, hu, hrun, hbytes]

/-- Settles O55, procedure by procedure: what each answers is a function of its inputs. -/
theorem keystreamReadsOnlyItsInputs : Obligations.KeystreamReadsOnlyItsInputs := by
  intro s s'
  refine ⟨fun hkey hnonce hctr hksph => ?ksblk, fun hseed hpctr hpph => ?pksblk,
    fun hs hs' => ⟨fun K N C L => ?ksBytes, fun seed L => ?prngBytes⟩⟩
  case ksblk =>
    exact ⟨_, _, exec_ksblk s, exec_ksblk s', ksblkState_congr hkey hnonce hctr hksph⟩
  case pksblk =>
    obtain ⟨hblock, -, hpctr', hpph'⟩ := pksblkState_congr Config.params ⟨hseed, hpctr, hpph⟩
    exact ⟨_, _, exec_pksblk s, exec_pksblk s', hblock, hpctr', hpph'⟩
  case ksBytes =>
    obtain ⟨t, ht, -⟩ := ksBytesAreTheBlocksOfTheAdvancingCounter K N C L s hs
    obtain ⟨t', ht', -⟩ := ksBytesAreTheBlocksOfTheAdvancingCounter K N C L s' hs'
    exact ⟨_, t, t', ht, ht'⟩
  case prngBytes =>
    obtain ⟨r, t, ht, hseed, hpctr, hpph⟩ := prngBytes_ready hs seed L
    obtain ⟨r', t', ht', hseed', hpctr', hpph'⟩ := prngBytes_ready hs' seed L
    have hinputs : SamePrngInputs r' r :=
      ⟨hseed'.trans hseed.symm, hpctr'.trans hpctr.symm, hpph'.trans hpph.symm⟩
    rw [blockWords_pksblkState_congr Config.params _ hinputs] at ht'
    exact ⟨_, t, t', ht, ht'⟩

end Sys2Proof.Machine
end

section
/-! PROOF. The one-time key of PKEYGEN in words (44_poly1305.md R251, R252). -/

namespace Sys2Proof.Machine

open Sys2Proof

/-- Under BIG, 16 bytes give the byte-swapped words, the first most significant (R252). -/
theorem getWord_keyInt_big (w : Fin 4 → Word) (k : Fin 4) :
    getWord (keyInt .big (leBytes (w 0) ++ leBytes (w 1) ++ leBytes (w 2) ++ leBytes (w 3))) (3 - k.val) =
      bswap32 (w k) := by
  obtain ⟨h0, h1, h2, h3⟩ := getWord_ofNat _ _ _ _ _ (intBe_four (w 0) (w 1) (w 2) (w 3))
  match k with
  | 0 => exact h3
  | 1 => exact h2
  | 2 => exact h1
  | 3 => exact h0

/-- Under LITTLE, 16 bytes give the words as they are, the first least significant (R252). -/
theorem getWord_keyInt_little (w : Fin 4 → Word) (k : Fin 4) :
    getWord (keyInt .little (leBytes (w 0) ++ leBytes (w 1) ++ leBytes (w 2) ++ leBytes (w 3))) k.val = w k := by
  obtain ⟨h0, h1, h2, h3⟩ := getWord_ofNat _ _ _ _ _ (intLe_four (w 0) (w 1) (w 2) (w 3))
  match k with
  | 0 => exact h0
  | 1 => exact h1
  | 2 => exact h2
  | 3 => exact h3

theorem exec_pkeygen (s : State) : exec .pkeygen s = .next (pkeygenState Config.params s) := rfl

@[simp] theorem pkeygenState_block (p : Params) (s : State) : (pkeygenState p s).block = permF (loadC s) := rfl

/-- R is read from words 0 to 3 of the block (R251). -/
theorem pkeygenState_authR (p : Params) (s : State) :
    (pkeygenState p s).authR =
      let x := (pkeygenState p s).block
      keyInt p.rsOrder (leBytes x[0] ++ leBytes x[1] ++ leBytes x[2] ++ leBytes x[3]) :=
  congrArg (keyInt p.rsOrder) (keyBytes_halves (permF (loadC s))).1

/-- S is read from words 4 to 7 of the block (R251). -/
theorem pkeygenState_authS (p : Params) (s : State) :
    (pkeygenState p s).authS =
      let x := (pkeygenState p s).block
      keyInt p.rsOrder (leBytes x[4] ++ leBytes x[5] ++ leBytes x[6] ++ leBytes x[7]) :=
  congrArg (keyInt p.rsOrder) (keyBytes_halves (permF (loadC s))).2

/-- Settles O38: the block is KSBLK's, and each half of the key is an integer of four of its words, read in either order. -/
theorem pkeygenSplitsTheBlockIntoRAndS : Obligations.PkeygenSplitsTheBlockIntoRAndS := by
  intro p s
  have hblock : (ksblkState s).block = (pkeygenState p s).block := by simp
  refine ⟨exec_pkeygen s, ⟨ksblkState s, exec_ksblk s, hblock⟩, ?big, ?little, rfl⟩
  case big =>
    intro hp k
    rw [pkeygenState_authR, pkeygenState_authS, hp]
    exact ⟨getWord_keyInt_big (fun j => (pkeygenState p s).block[j.val]) k,
      getWord_keyInt_big (fun j => (pkeygenState p s).block[4 + j.val]) k⟩
  case little =>
    intro hp k
    rw [pkeygenState_authR, pkeygenState_authS, hp]
    exact ⟨getWord_keyInt_little (fun j => (pkeygenState p s).block[j.val]) k,
      getWord_keyInt_little (fun j => (pkeygenState p s).block[4 + j.val]) k⟩

end Sys2Proof.Machine
end

section
/-! PROOF. The range of the accumulator (44_poly1305.md R262). -/

namespace Sys2Proof.Machine

open Sys2Proof

/-- What a command can do to ACC: PINIT, PABS and PFIN leave a residue modulo p, as ZERO does; every other command leaves
ACC alone (R254, R255, R256, R281). -/
theorem exec_acc_cases {i : Instr} {s t : State} (h : exec i s = .next t) :
    (∃ n, t.acc = BitVec.ofNat 130 (n % polyP)) ∨
      (t.acc = s.acc ∧ ¬(i = .pinit ∨ (∃ w, i = .pabs w) ∨ i = .pfin)) := by
  cases i with
  | zero | pinit =>
    cases h
    exact .inl ⟨0, rfl⟩
  | pabs w | pfin =>
    cases h
    exact .inl ⟨_, rfl⟩
  | qr a b c d =>
    refine .inr ⟨?_, by simp⟩
    cases hd : indicesDistinct a b c d with
    | true =>
      cases (execQr_distinct hd s).symm.trans h
      rfl
    | false =>
      cases (execQr_alias hd s).symm.trans h
      simp
  | nop | round | perm | ctrd | pctrd | ksblk | pksblk | pkeygen =>
    cases h
    exact .inr ⟨rfl, by simp⟩

/-- A residue modulo p fits in the 130 bits of ACC, and is below p (R250, R262). -/
theorem toNat_residue_lt (n : Nat) : (BitVec.ofNat 130 (n % polyP)).toNat < polyP := by
  rw [BitVec.toNat_ofNat]
  exact (Nat.mod_le _ _).trans_lt (Nat.mod_lt n (by decide))

/-- Settles O42: ACC is a residue modulo p, or it is unchanged and the command is none of the three. -/
theorem commandsKeepTheAccumulatorBelowP : Obligations.CommandsKeepTheAccumulatorBelowP := by
  intro s t i h
  rcases exec_acc_cases h with ⟨n, hn⟩ | ⟨hkept, hother⟩
  · rw [hn]
    exact ⟨fun _ => toNat_residue_lt n, fun _ => toNat_residue_lt n⟩
  · rw [hkept]
    exact ⟨fun hi => absurd hi hother, id⟩

end Sys2Proof.Machine
end

section
/-! PROOF. The padding of TAG_OF (44_poly1305.md R257, R261). -/

namespace Sys2Proof.Machine

open Sys2Proof

/-- A message of odd length is padded with one zero byte (R257 step 1). -/
theorem padEven_of_odd {m : List Byte} (h : m.length % 2 = 1) : padEven m = m ++ [0] :=
  if_pos h

/-- A message of even length is absorbed as it is (R257 step 1). -/
theorem padEven_of_even {m : List Byte} (h : m.length % 2 = 0) : padEven m = m :=
  if_neg (by omega)

/-- TAG_OF absorbs the same words of an odd message and of it with the zero byte appended (R261). -/
theorem messageWords_append_zero (order : ByteOrder) {m : List Byte} (h : m.length % 2 = 1) :
    messageWords order (m ++ [0]) = messageWords order m := by
  have heven : (m ++ [0]).length % 2 = 0 := by
    rw [List.length_append, List.length_singleton]
    omega
  rw [messageWords, messageWords, padEven_of_odd h, padEven_of_even heven]

/-- Settles O56: TAG_OF reads its message through the words it absorbs, and they are the same. -/
theorem tagOfOddMessageIsTagOfPaddedMessage : Obligations.TagOfOddMessageIsTagOfPaddedMessage := by
  intro msgOrder tagOrder m s h
  rw [tagOf, tagOf, messageWords_append_zero msgOrder h]

end Sys2Proof.Machine
end

section
/-! PROOF. What an access that raises an error records, and what it leaves unchanged (60_exceptions.md R303, R305). -/

namespace Sys2Proof.Machine

open Sys2Proof Sys2Proof.Safety

/-- The ERRINFO of an error (R305): the offset for the two access errors, and otherwise the command word. -/
def recordedInfo (code : ErrCode) (a : BusAccess) : Word :=
  if code = .writeBusy ∨ code = .badAccess then BitVec.ofNat 32 a.addr.toNat else a.wdata

/-- The two access errors record the offset of the access (R305). -/
theorem recordedInfo_of_accessError {code : ErrCode} (h : code = .badAccess ∨ code = .writeBusy) (a : BusAccess) :
    recordedInfo code a = accessInfo a :=
  (if_pos h.symm).trans (BitVec.ofNat_toNat 32 a.addr)

/-- The four command errors record the refused word (R305). -/
theorem recordedInfo_of_commandError {code : ErrCode}
    (h : code = .cmdBusy ∨ code = .illegalOp ∨ code = .reservedBits ∨ code = .qrAlias) (a : BusAccess) :
    recordedInfo code a = a.wdata := by
  rcases h with rfl | rfl | rfl | rfl <;> rfl

/-- Where ERR goes from 0 to 1, the access was refused, with nothing but its record and its answer (R303): a write that is
accepted or stored and a read leave ERR at 0, and a write to STATUS can only clear it. -/
theorem busAccess_of_err_raised {a : BusAccess} {s : State} (hs : s.err = false) (hraised : (busAccess a s).err = true) :
    ∃ code ans, code ≠ .none ∧ busAccess a s = answer ans (raiseError code (recordedInfo code a) s) := by
  rcases busAccess_cases a s with ⟨code, ans, hcode, h⟩ | h | ⟨-, -, h⟩ | ⟨r, -, -, -, h⟩ | ⟨v, h⟩ | ⟨v, h⟩
  case inl =>
    refine ⟨code, ans, ?_, by rw [h, recordedInfo_of_accessError hcode]⟩
    rcases hcode with rfl | rfl <;> decide
  case inr.inl =>
    rcases writeCmd_cases a.wdata s with ⟨herr, -⟩ | ⟨-, code, hcode, hw⟩ | ⟨-, -, -, hw⟩
    · simp [hs] at herr
    · refine ⟨code, _, ?_, by rw [h, hw, refuseWrite_eq, recordedInfo_of_commandError hcode]⟩
      rcases hcode with rfl | rfl | rfl | rfl <;> decide
    · simp [h, hw, hs] at hraised
  case inr.inr.inl => simp [h, writeStatus_eq, hs] at hraised
  case inr.inr.inr.inl =>
    obtain ⟨-, -, herr, -⟩ := storeReg_keeps a.wdata s r
    simp [h, herr, hs] at hraised
  case inr.inr.inr.inr.inl | inr.inr.inr.inr.inr => simp [h, hs] at hraised

/-- Settles O17: the refusal that raised the error, read field by field. -/
theorem errorChangesOnlyTheErrorRecord : Obligations.ErrorChangesOnlyTheErrorRecord := by
  intro s a hs hraised
  obtain ⟨code, ans, hcode, h⟩ := busAccess_of_err_raised hs hraised
  rw [h]
  simp [SameData, hs, hcode, recordedInfo]

end Sys2Proof.Machine
end

section
/-! PROOF. The interrupt line in the words the host reads (60_exceptions.md R311). -/

namespace Sys2Proof.Machine

open Sys2Proof

/-- STATUS bit 1 is DONE (R33). -/
@[simp] theorem getLsbD_statusWord_done (s : State) : (statusWord s).getLsbD 1 = s.done := by
  simp [statusWord]

/-- STATUS bit 2 is ERR (R33). -/
@[simp] theorem getLsbD_statusWord_err (s : State) : (statusWord s).getLsbD 2 = s.err := by
  simp [statusWord]

/-- IRQEN bit 0 is DONE_IE (R38). -/
@[simp] theorem getLsbD_irqenWord_doneIe (s : State) : (irqenWord s).getLsbD 0 = s.doneIe := by
  simp [irqenWord]

/-- IRQEN bit 1 is ERR_IE (R38). -/
@[simp] theorem getLsbD_irqenWord_errIe (s : State) : (irqenWord s).getLsbD 1 = s.errIe := by
  simp [irqenWord]

/-- Settles O19: the four bits read are the four flags of the line; after reset every flag is 0. -/
theorem interruptLineFollowsStatusAndIrqen : Obligations.InterruptLineFollowsStatusAndIrqen := by
  intro s p
  refine ⟨?_, rfl⟩
  change s.irq = (((statusWord s).getLsbD 1 && (irqenWord s).getLsbD 0) ||
    ((statusWord s).getLsbD 2 && (irqenWord s).getLsbD 1))
  rw [getLsbD_statusWord_done, getLsbD_statusWord_err, getLsbD_irqenWord_doneIe, getLsbD_irqenWord_errIe]
  rfl

end Sys2Proof.Machine
end

section
/-! PROOF. Writes while a command is in flight (70_reset_and_hazards.md R356). -/

namespace Sys2Proof.Machine

open Sys2Proof Sys2Proof.Safety

/-- The ERRINFO of an access error by `wr REG` is the offset of REG (R305). -/
@[simp] theorem accessInfo_regWrite (r : Reg) (v : Word) :
    accessInfo (regWrite r v) = BitVec.ofNat 32 r.offset := by
  rw [accessInfo, regWrite, BitVec.setWidth_ofNat_of_le_of_lt (by decide) (offset_lt r)]

/-- `wr REG` of an RW-idle register while BUSY = 1 is refused with WRITE_BUSY, and only the error is recorded (R356). -/
theorem busAccess_regWrite_busy {s : State} {r : Reg} (hc : r.accessClass = .rwIdle) (hb : s.busy = true) (v : Word) :
    busAccess (regWrite r v) s = afterError .writeBusy (BitVec.ofNat 32 r.offset) (.write true) s := by
  rw [busAccess_write_busy rfl (accessedReg_regWrite r v) hc hb, accessInfo_regWrite]
  exact refuseWrite_eq_afterError .writeBusy _ s

/-- `wr IRQEN` stores its two enables at any time (R38, R54). -/
theorem busAccess_regWrite_irqen (v : Word) (s : State) :
    busAccess (regWrite .irqen v) s =
      { s with doneIe := v.getLsbD 0, errIe := v.getLsbD 1, busAnswer := some (.write false) } :=
  busAccess_write_stored rfl (accessedReg_regWrite .irqen v) (.inl rfl)

/-- `wr STATUS` does its W1C actions at any time (R33, R54). -/
theorem busAccess_regWrite_status (v : Word) (s : State) :
    busAccess (regWrite .status v) s = answer (.write false) (writeStatus v s) :=
  busAccess_write_status rfl (accessedReg_regWrite .status v) rfl

/-- Settles O15: BUSY = 1 matters to the RW-idle registers alone. -/
theorem writeWhileBusyIsRefused : Obligations.WriteWhileBusyIsRefused := by
  intro s v hb
  refine ⟨fun r hc => busAccess_regWrite_busy hc hb v, busAccess_regWrite_irqen v s, ?_⟩
  rw [busAccess_regWrite_status, writeStatus_eq]
  rfl

end Sys2Proof.Machine
end

section
/-! PROOF. The encoder and the decoder undo each other (30_encoding.md R112 to R116, R123). -/

namespace Sys2Proof

open Sys2Proof.Machine

/-- The four index fields of the word of a QR command are its operands, and its reserved byte is 0 (R113). -/
theorem fields_encode_qr (a b c d : BitVec 4) :
    (encode (.qr a b c d)).extractLsb' 24 8 = 0 ∧ (encode (.qr a b c d)).extractLsb' 8 4 = a ∧
      (encode (.qr a b c d)).extractLsb' 12 4 = b ∧ (encode (.qr a b c d)).extractLsb' 16 4 = c ∧
      (encode (.qr a b c d)).extractLsb' 20 4 = d := by
  refine ⟨?_, ?_, ?_, ?_, ?_⟩ <;> apply BitVec.eq_of_getLsbD_eq <;> intro j hj <;> interval_cases j <;>
    simp [encode, Instr.operandBits, Instr.opcode]

/-- The upper half of the word of a PABS command is its message word, and its reserved byte is 0 (R114). -/
theorem fields_encode_pabs (w : BitVec 16) :
    (encode (.pabs w)).extractLsb' 8 8 = 0 ∧ (encode (.pabs w)).extractLsb' 16 16 = w := by
  refine ⟨?_, ?_⟩ <;> apply BitVec.eq_of_getLsbD_eq <;> intro j hj <;> interval_cases j <;>
    simp [encode, Instr.operandBits, Instr.opcode]

/-- Settles O1, format by format: a word of format N is one constant, and a word of format Q or W carries its operands
in
the fields its decoder reads. -/
theorem decodeOfEncodeIsTheCommand : Obligations.DecodeOfEncodeIsTheCommand := by
  intro i
  cases i with
  | nop | round | perm | zero | ctrd | pctrd | ksblk | pksblk | pkeygen | pinit | pfin => rfl
  | qr a b c d =>
    obtain ⟨hreserved, ha, hb, hc, hd⟩ := fields_encode_qr a b c d
    rw [decodeWord_of_qr (opField_encode _), decodeQ, if_pos hreserved, ha, hb, hc, hd]
  | pabs w =>
    obtain ⟨hreserved, hw⟩ := fields_encode_pabs w
    rw [decodeWord_of_pabs (opField_encode _), decodeW, if_pos hreserved, hw]

/-- A word that decodes has no reserved bit of its command's format (R118). -/
theorem reservedMask_of_decodeWord {w : Word} {i : Instr} (h : decodeWord w = .ok i) : w &&& i.reservedMask = 0 := by
  obtain ⟨j, -, hj⟩ := decodeWord_of_opcode (opcode_of_decodeWord h).symm
  rw [h] at hj
  split at hj
  · assumption
  · cases hj

/-- A word is its OP and the fields of format Q (R113). -/
theorem word_eq_of_fields_q {x y : Word} (hop : opField x = opField y) (ha : x.extractLsb' 8 4 = y.extractLsb' 8 4)
    (hb : x.extractLsb' 12 4 = y.extractLsb' 12 4) (hc : x.extractLsb' 16 4 = y.extractLsb' 16 4)
    (hd : x.extractLsb' 20 4 = y.extractLsb' 20 4) (hreserved : x.extractLsb' 24 8 = y.extractLsb' 24 8) : x = y := by
  have := x.isLt
  have := y.isLt
  simp only [opField, BitVec.toNat_eq, BitVec.extractLsb'_toNat, Nat.shiftRight_eq_div_pow] at *
  omega

/-- A word is its OP and the fields of format W (R114). -/
theorem word_eq_of_fields_w {x y : Word} (hop : opField x = opField y)
    (hreserved : x.extractLsb' 8 8 = y.extractLsb' 8 8) (hw : x.extractLsb' 16 16 = y.extractLsb' 16 16) : x = y := by
  have := x.isLt
  have := y.isLt
  simp only [opField, BitVec.toNat_eq, BitVec.extractLsb'_toNat, Nat.shiftRight_eq_div_pow] at *
  omega

/-- Settles O2: the command's word and the word decoded agree in OP, in every operand and in the reserved bits. -/
theorem encodeOfDecodeIsTheWord : Obligations.EncodeOfDecodeIsTheWord := by
  intro w i hi
  have hop : opField (encode i) = opField w := (opField_encode i).trans (opcode_of_decodeWord hi)
  have hreserved := reservedMask_of_decodeWord hi
  cases i with
  | nop | round | perm | zero | ctrd | pctrd | ksblk | pksblk | pkeygen | pinit | pfin =>
    have hzero : w.extractLsb' 8 24 = 0 := (extractLsb'_eq_zero_iff w 8 24).mpr hreserved
    exact (word_eq_iff _ w).mpr ⟨hop, hzero ▸ rfl⟩
  | qr a b c d =>
    obtain ⟨hr', ha', hb', hc', hd'⟩ := fields_encode_qr a b c d
    have hzero := (extractLsb'_eq_zero_iff w 24 8).mpr hreserved
    rw [decodeWord_of_qr (hop.symm.trans (opField_encode _))] at hi
    obtain ⟨ha, hb, hc, hd⟩ := Instr.qr.inj (operands_of_decodeQ hi)
    exact word_eq_of_fields_q hop (ha'.trans ha) (hb'.trans hb) (hc'.trans hc) (hd'.trans hd) (hr'.trans hzero.symm)
  | pabs m =>
    obtain ⟨hr', hm'⟩ := fields_encode_pabs m
    have hzero := (extractLsb'_eq_zero_iff w 8 8).mpr hreserved
    rw [decodeWord_of_pabs (hop.symm.trans (opField_encode _)), decodeW, if_pos hzero] at hi
    have hm : w.extractLsb' 16 16 = m := Instr.pabs.inj (Except.ok.inj hi)
    exact word_eq_of_fields_w hop (hr'.trans hzero.symm) (hm'.trans hm.symm)

/-- Settles O4: the decoder run on each of the nine words. -/
theorem specWordsDecodeToTheirCommands : Obligations.SpecWordsDecodeToTheirCommands := by
  unfold Obligations.SpecWordsDecodeToTheirCommands
  decide

end Sys2Proof
end

section
/-! PROOF. What a step can do from a state that meets the invariant, and the runs of the core (60_exceptions.md R300,
70_reset_and_hazards.md R350, R361). -/

namespace Sys2Proof.Machine

open Sys2Proof Sys2Proof.Safety

/-- Settles O47: at reset no command is in flight and the error record is empty. -/
theorem resetSatisfiesTheInvariant : Obligations.ResetSatisfiesTheInvariant := by
  unfold Obligations.ResetSatisfiesTheInvariant
  decide

/-- What a clock cycle can do from a state that meets the invariant, once for every proof: a reset; the access alone,
with no
command in flight; the access inside a latency; or the access and the completion of the command in the latch. -/
theorem clockCycle_cases (c : BusCycle) {s : State} (hs : Inv s) :
    (c.rstN = false ∧ ∃ ans, clockCycle c s = .next { resetRegisters s with busAnswer := ans }) ∨
    (c.rstN = true ∧ s.latch = none ∧ clockCycle c s = .next (presentAccess c.access s)) ∨
    (c.rstN = true ∧ (∃ w n, s.latch = some ⟨w, n + 1⟩) ∧ s.busy = true ∧
      clockCycle c s = .next (countDown (presentAccess c.access s))) ∨
    (c.rstN = true ∧ ∃ w i, s.latch = some ⟨w, 0⟩ ∧ s.busy = true ∧ decodeWord w = .ok i ∧ i.wellFormed = true ∧
      clockCycle c s = exec i (presentAccess c.access s)) := by
  cases hr : c.rstN with
  | false => exact .inl ⟨rfl, clockCycle_reset hr⟩
  | true =>
    cases hl : s.latch with
    | none =>
      have hb : s.busy = false := by obtain ⟨hbusy, -⟩ := hs; rw [hbusy, hl]; rfl
      exact .inr (.inl ⟨rfl, rfl, clockCycle_idle hr hb⟩)
    | some l =>
      obtain ⟨w, n⟩ := l
      obtain ⟨hb, i, hd, hi⟩ := latched_of_inv hs hl
      cases n with
      | zero =>
        obtain ⟨-, -, hlatch⟩ := presentAccess_busy (access := c.access) hb
        refine .inr (.inr (.inr ⟨rfl, w, i, rfl, hb, hd, hi, ?_⟩))
        rw [clockCycle_completes hr hb (by simp [latencyOver, hl]), runLatched_ok (hlatch.trans hl) hd]
      | succ n =>
        exact .inr (.inr (.inl ⟨rfl, ⟨w, n, rfl⟩, hb, clockCycle_waits hr hb (by simp [latencyOver, hl])⟩))

/-- A reset leaves the invariant, whatever answer it records (R350). -/
theorem resetRegisters_inv (s : State) (ans : Option BusAnswer) : Inv { resetRegisters s with busAnswer := ans } :=
  resetSatisfiesTheInvariant

/-- A cycle of a latency keeps the invariant. -/
theorem countDown_inv {s : State} (hs : Inv s) : Inv (countDown s) := by
  obtain ⟨hbusy, hlatched, hcode, hinfo⟩ := hs
  refine ⟨?_, ?_, hcode, hinfo⟩
  · rw [countDown_busy, countDown_latch, Option.isSome_map, hbusy]
  · unfold latchedOk at *
    rw [countDown_latch]
    cases hl : s.latch with
    | none => rfl
    | some l => rw [hl] at hlatched; exact hlatched

/-- The completion of a well-formed command keeps the invariant. -/
theorem exec_inv {i : Instr} (hi : i.wellFormed = true) {s t : State} (hs : Inv s) (h : exec i s = .next t) :
    Inv t := by
  obtain ⟨-, -, hcode, hinfo⟩ := hs
  obtain ⟨u, hu, hbusy, -, hlatch, herr, herrcode, herrinfo, -⟩ := exec_completes hi s
  cases hu.symm.trans h
  exact ⟨by rw [hbusy, hlatch]; rfl, by rw [latchedOk, hlatch], by rw [herr, herrcode]; exact hcode,
    by rw [herr, herrinfo]; exact hinfo⟩

/-- From a state that meets the invariant a step goes on, to one that meets it. -/
theorem step_next_inv {s : State} (hs : Inv s) : ∃ t, step s = .next t ∧ Inv t := by
  have htake : Inv (takeCycle s) := hs
  have hpresent : Inv (presentAccess (nextCycle s).access (takeCycle s)) := presentAccess_inv htake
  rcases clockCycle_cases (nextCycle s) htake with ⟨-, ans, h⟩ | ⟨-, -, h⟩ | ⟨-, -, -, h⟩ | ⟨-, w, i, -, -, -, hi, h⟩
  · exact ⟨_, h, resetRegisters_inv _ ans⟩
  · exact ⟨_, h, hpresent⟩
  · exact ⟨_, h, countDown_inv hpresent⟩
  · obtain ⟨t, ht, -⟩ := exec_completes hi (presentAccess (nextCycle s).access (takeCycle s))
    exact ⟨t, h.trans ht, exec_inv hi hpresent ht⟩

/-- Settles O48: the one step there is from `s` keeps the invariant. -/
theorem everyStepKeepsTheInvariant : Obligations.EveryStepKeepsTheInvariant := by
  intro s t hs ht
  obtain ⟨u, hu, hinv⟩ := step_next_inv hs
  cases hu.symm.trans ht
  exact hinv

/-- Settles O49, by induction on the number of steps: each goes on to a state that meets the invariant again. -/
theorem theCoreNeverStops : Obligations.TheCoreNeverStops := by
  intro n
  induction n with
  | zero => exact fun s _ => ⟨s, rfl⟩
  | succ n ih =>
    intro s hs
    obtain ⟨t, ht, hinv⟩ := step_next_inv hs
    obtain ⟨u, hu⟩ := ih t hinv
    exact ⟨u, by rw [steps, ht]; exact hu⟩

/-- The step that ends a latency: the access of the cycle, and the command's meaning (R300; log 11). -/
theorem step_completes {s : State} {w : Word} {i : Instr} (hb : s.busy = true) (hl : s.latch = some ⟨w, 0⟩)
    (hd : decodeWord w = .ok i) (hr : (nextCycle s).rstN = true) :
    step s = exec i (presentAccess (nextCycle s).access (takeCycle s)) := by
  have hb' : (takeCycle s).busy = true := hb
  have hl' : (takeCycle s).latch = some ⟨w, 0⟩ := hl
  obtain ⟨-, -, hlatch⟩ := presentAccess_busy (access := (nextCycle s).access) hb'
  rw [step, clockCycle_completes hr hb' (by simp [latencyOver, hl]), runLatched_ok (hlatch.trans hl') hd]

/-- Settles O46: the three forms of the next cycle. -/
theorem stepRunsTheLatchedCommand : Obligations.StepRunsTheLatchedCommand := by
  intro s w i hb hl hd _
  refine ⟨fun henv => ?_, fun rest henv => ?_, fun a rest henv => ?_⟩ <;>
    rw [step_completes hb hl hd (by rw [nextCycle, henv]; rfl), nextCycle, takeCycle, henv]
  · show exec i { s with env := [] } = exec i s
    rw [← henv]
  · rfl
  · rfl

/-- While no reset is asserted the next cycle is out of reset, also when the host has nothing more to present (log 19).
-/
theorem nextCycle_rstN {s : State} (h : NoReset s) : (nextCycle s).rstN = true := by
  unfold nextCycle
  cases henv : s.env with
  | nil => rfl
  | cons c rest => exact h c (henv ▸ List.mem_cons_self)

/-- A cycle inside a latency changes no input of the command in flight, and leaves one cycle less to wait (R93, R361).
-/
theorem step_waits {s : State} {w : Word} {n : Nat} (hs : Inv s) (hr : NoReset s) (hl : s.latch = some ⟨w, n + 1⟩) :
    ∃ t, step s = .next t ∧ Inv t ∧ NoReset t ∧ t.latch = some ⟨w, n⟩ ∧ SameData t s := by
  have hb : (takeCycle s).busy = true := (latched_of_inv hs hl).1
  obtain ⟨hdata, -, hlatch⟩ := presentAccess_busy (access := (nextCycle s).access) hb
  refine ⟨_, clockCycle_waits (nextCycle_rstN hr) hb (by simp [latencyOver, hl]),
    countDown_inv (presentAccess_inv hs), ?_, ?_, hdata⟩
  · intro c hc
    rw [countDown_env, presentAccess_env] at hc
    exact hr c (List.mem_of_mem_tail hc)
  · rw [countDown_latch, hlatch, takeCycle_latch, hl]
    rfl

/-- A command in flight completes after its latency, on the data registers as they stand now (R300, R361). -/
theorem steps_complete (n : Nat) : ∀ {s : State} {w : Word} {i : Instr}, Inv s → NoReset s →
    s.latch = some ⟨w, n⟩ → decodeWord w = .ok i → i.wellFormed = true →
    ∃ u t, exec i s = .next u ∧ steps (n + 1) s = .next t ∧ SameData t u ∧ t.busy = false ∧ t.done = true ∧
      t.latch = none := by
  induction n with
  | zero =>
    intro s w i hs hr hl hd hi
    obtain ⟨hb, -⟩ := latched_of_inv hs hl
    obtain ⟨u, hu, -⟩ := exec_completes hi s
    obtain ⟨t, ht, hbusy, hdone, hlatch, -⟩ :=
      exec_completes hi (presentAccess (nextCycle s).access (takeCycle s))
    have hdata : SameData (presentAccess (nextCycle s).access (takeCycle s)) s :=
      (presentAccess_busy (s := takeCycle s) hb).1
    refine ⟨u, t, hu, ?_, exec_sameData i hdata ht hu, hbusy, hdone, hlatch⟩
    rw [steps, step_completes hb hl hd (nextCycle_rstN hr), ht]
    rfl
  | succ n ih =>
    intro s w i hs hr hl hd hi
    obtain ⟨v, hv, hvs, hvr, hvl, hdata⟩ := step_waits hs hr hl
    obtain ⟨u, t, hu, ht, htu, hend⟩ := ih hvs hvr hvl hd hi
    obtain ⟨u', hu', -⟩ := exec_completes hi s
    refine ⟨u', t, hu', ?_, sameData_trans htu (exec_sameData i hdata hu hu'), hend⟩
    rw [steps, hv]
    exact ht

/-- Settles O50: the invariant gives the command of the latch, and its latency passes. -/
theorem commandInFlightCompletesWithItsWholeEffect : Obligations.CommandInFlightCompletesWithItsWholeEffect := by
  intro s l hs hr hl
  obtain ⟨-, i, hd, hi⟩ := latched_of_inv hs hl
  obtain ⟨u, t, h⟩ := steps_complete l.wait hs hr hl hd hi
  exact ⟨i, u, t, hd, h⟩

/-- Settles O51: the completion comes after the write, and sets DONE. -/
theorem completionWinsOverAClearOfDone : Obligations.CompletionWinsOverAClearOfDone := by
  intro s w v rest hs hl henv
  obtain ⟨hb, i, hd, hi⟩ := latched_of_inv hs hl
  obtain ⟨t, ht, hbusy, hdone, -⟩ := exec_completes hi (presentAccess (nextCycle s).access (takeCycle s))
  have hr : (nextCycle s).rstN = true := by rw [nextCycle, henv]; rfl
  exact ⟨t, (step_completes hb hl hd hr).trans ht, hdone, hbusy⟩

/-- Settles O21: the cycle is taken, and the registers are reset with the access, if any, answered. -/
theorem resetCycleForcesEveryRegister : Obligations.ResetCycleForcesEveryRegister := by
  intro s access rest henv
  rw [step, nextCycle, takeCycle, henv]
  cases access with
  | none => rfl
  | some a => cases hw : a.write <;> simp [clockCycle, ignoredAccess, hw, answer, resetRegisters]

/-- What an access can do to the data registers and PHASE: nothing, or the store of a register the host writes. -/
theorem busAccess_data (a : BusAccess) (s : State) :
    SameData (busAccess a s) s ∨
      ∃ r, accessedReg a = some r ∧ a.write = true ∧ SameData (busAccess a s) (storeReg a.wdata s r) := by
  rcases busAccess_cases a s with ⟨code, ans, -, h⟩ | h | ⟨-, -, h⟩ | ⟨r, hr, hw, -, h⟩ | ⟨v, h⟩ | ⟨v, h⟩
  case inr.inr.inr.inl => exact .inr ⟨r, hr, hw, h ▸ sameData_refl _⟩
  all_goals left
  case inl => rw [h]; simp [SameData]
  case inr.inl =>
    rw [h]
    rcases writeCmd_cases a.wdata s with ⟨-, hc⟩ | ⟨-, code, -, hc⟩ | ⟨-, -, -, hc⟩ <;> rw [hc]
    · exact sameData_refl s
    · simp [SameData, refuseWrite_eq]
    · exact sameData_refl s
  case inr.inr.inl => rw [h, writeStatus_eq]; exact sameData_refl s
  case inr.inr.inr.inr.inl | inr.inr.inr.inr.inr => rw [h]; exact sameData_refl s

/-- Which register a write can change: KEY, NONCE and SEED by a write of one of their words, TAG by none (R44 to R52).
-/
theorem storeReg_keyNonceSeedTag (v : Word) (s : State) (r : Reg) :
    ((∀ k, r ≠ .key k) → (storeReg v s r).key = s.key) ∧ ((∀ k, r ≠ .nonce k) → (storeReg v s r).nonce = s.nonce) ∧
      ((∀ k, r ≠ .seed k) → (storeReg v s r).seed = s.seed) ∧ (storeReg v s r).tag = s.tag := by
  cases r with
  | key k => exact ⟨fun h => absurd rfl (h k), fun _ => rfl, fun _ => rfl, rfl⟩
  | nonce k => exact ⟨fun _ => rfl, fun h => absurd rfl (h k), fun _ => rfl, rfl⟩
  | seed k => exact ⟨fun _ => rfl, fun _ => rfl, fun h => absurd rfl (h k), rfl⟩
  | _ => exact ⟨fun _ => rfl, fun _ => rfl, fun _ => rfl, rfl⟩

/-- What the access of a cycle can change of KEY, NONCE, SEED and TAG. -/
theorem presentAccess_keyNonceSeedTag (access : Option BusAccess) (s : State) :
    ((∀ a k, access = some a → a.write = true → accessedReg a ≠ some (.key k)) →
      (presentAccess access s).key = s.key) ∧
    ((∀ a k, access = some a → a.write = true → accessedReg a ≠ some (.nonce k)) →
      (presentAccess access s).nonce = s.nonce) ∧
    ((∀ a k, access = some a → a.write = true → accessedReg a ≠ some (.seed k)) →
      (presentAccess access s).seed = s.seed) ∧
    (presentAccess access s).tag = s.tag := by
  cases access with
  | none => exact ⟨fun _ => rfl, fun _ => rfl, fun _ => rfl, rfl⟩
  | some a =>
    rcases busAccess_data a s with ⟨-, hkey, hnonce, -, hseed, -, -, -, -, htag, -⟩ |
        ⟨r, hr, hw, -, hkey, hnonce, -, hseed, -, -, -, -, htag, -⟩
    · exact ⟨fun _ => hkey, fun _ => hnonce, fun _ => hseed, htag⟩
    · obtain ⟨kkey, knonce, kseed, ktag⟩ := storeReg_keyNonceSeedTag a.wdata s r
      have other {q : Reg} (h : accessedReg a ≠ some q) : r ≠ q := fun he => h (he ▸ hr)
      exact ⟨fun h => hkey.trans (kkey fun k => other (h a k rfl hw)),
        fun h => hnonce.trans (knonce fun k => other (h a k rfl hw)),
        fun h => hseed.trans (kseed fun k => other (h a k rfl hw)), htag.trans ktag⟩

/-- Of the commands only ZERO writes KEY, NONCE and SEED, and only ZERO and PFIN write TAG (R44, R45, R47, R52). -/
theorem exec_keyNonceSeedTag {i : Instr} (hi : i.wellFormed = true) (hz : i ≠ .zero) {s t : State}
    (h : exec i s = .next t) :
    t.key = s.key ∧ t.nonce = s.nonce ∧ t.seed = s.seed ∧ (i ≠ .pfin → t.tag = s.tag) := by
  cases i with
  | zero => exact absurd rfl hz
  | pfin =>
    cases h
    exact ⟨rfl, rfl, rfl, fun hp => absurd rfl hp⟩
  | qr a b c d =>
    cases (execQr_distinct hi s).symm.trans h
    exact ⟨rfl, rfl, rfl, fun _ => rfl⟩
  | nop | round | perm | ctrd | pctrd | ksblk | pksblk | pkeygen | pinit | pabs w =>
    cases h
    exact ⟨rfl, rfl, rfl, fun _ => rfl⟩

/-- Settles O52: the access of the cycle changes no register the host does not write, and the completion after it, where
there
is one, is not ZERO's. -/
theorem keyNonceSeedAndTagHaveNoOtherWriter : Obligations.KeyNonceSeedAndTagHaveNoOtherWriter := by
  intro s t hs ht hrst hzero
  obtain ⟨hkey, hnonce, hseed, htag⟩ := presentAccess_keyNonceSeedTag (nextCycle s).access (takeCycle s)
  rcases clockCycle_cases (s := takeCycle s) (nextCycle s) hs with
    ⟨hr, -⟩ | ⟨-, -, h⟩ | ⟨-, -, -, h⟩ | ⟨-, w, i, hl, -, hd, hi, h⟩
  · rw [hr] at hrst
    cases hrst
  · cases h.symm.trans ht
    exact ⟨hkey, hnonce, hseed, fun _ => htag⟩
  · cases h.symm.trans ht
    exact ⟨hkey, hnonce, hseed, fun _ => htag⟩
  · have hnotZero : i ≠ .zero := fun he => hzero _ hl (he ▸ hd)
    obtain ⟨ekey, enonce, eseed, etag⟩ := exec_keyNonceSeedTag hi hnotZero (h.symm.trans ht)
    exact ⟨fun hw => ekey.trans (hkey hw), fun hw => enonce.trans (hnonce hw), fun hw => eseed.trans (hseed hw),
      fun hp => (etag fun he => hp _ hl (he ▸ hd)).trans htag⟩

end Sys2Proof.Machine
end

section
/-! PROOF. The register map (10_state.md R30, 20_memory.md R82, R85). -/

namespace Sys2Proof.Machine

open Sys2Proof Sys2Proof.Safety

/-- An offset lies in a register of `n` words, or the row of the map finds none there. -/
theorem wordIn_eq_none_iff (base n off : Nat) : wordIn base n off = none ↔ ¬(base ≤ off ∧ off < base + 4 * n) := by
  unfold wordIn
  split <;> simp [*]

/-- A row of the map finds, at an aligned offset, the word whose offset it is (R30). -/
theorem offset_of_wordIn {base n off : Nat} {reg : Fin n → Reg} {r : Reg} (hoff : off % 4 = 0) (hbase : base % 4 = 0)
    (hreg : ∀ k, (reg k).offset = base + 4 * k.val) (h : (wordIn base n off).map reg = some r) : r.offset = off := by
  unfold wordIn at h
  split at h
  · cases h
    rw [hreg]
    show base + 4 * ((off - base) / 4) = off
    omega
  · cases h

/-- An offset that holds a register holds the one whose offset it is (R30). -/
theorem offset_of_regAt {off : Nat} {r : Reg} (h : regAt off = some r) : r.offset = off := by
  unfold regAt at h
  split at h
  · cases h
  rename_i halign
  have hoff : off % 4 = 0 := by omega
  iterate 6
    split at h
    · cases h
      exact Eq.symm ‹_›
  have found {base n : Nat} {reg : Fin n → Reg} (hbase : base % 4 = 0) (hreg : ∀ k, (reg k).offset = base + 4 * k.val)
      (hrow : (wordIn base n off).map reg = some r) : r.offset = off := offset_of_wordIn hoff hbase hreg hrow
  simp only [Option.orElse_eq_some] at h
  rcases h with h | ⟨-, h | ⟨-, h | ⟨-, h | ⟨-, h | ⟨-, h | ⟨-, h | ⟨-, h | ⟨-, h | ⟨-, h | ⟨-, h | ⟨-, h⟩⟩⟩⟩⟩⟩⟩⟩⟩⟩⟩ <;>
    exact found (by decide) (fun _ => rfl) h

/-- The reserved gaps as ranges (R30). -/
theorem unmapped_iff (off : Nat) : unmapped off = true ↔ (0x030 ≤ off ∧ off ≤ 0x03F) ∨ (0x0F0 ≤ off ∧ off ≤ 0x0FF) ∨
    (0x134 ≤ off ∧ off ≤ 0x13F) ∨ (0x150 ≤ off ∧ off ≤ 0x1FF) := by
  simp [unmapped, or_assoc]

/-- The offsets of the window that hold no register are the misaligned ones and the reserved gaps (R30, R82, R85). -/
theorem regAt_eq_none_iff {off : Nat} (hoff : off < 0x200) : regAt off = none ↔ off % 4 ≠ 0 ∨ unmapped off = true := by
  rw [unmapped_iff]
  unfold regAt
  split
  · simp [*]
  iterate 6
    split
    · simp [*]
  simp only [Option.orElse_eq_none, Option.map_eq_none_iff, wordIn_eq_none_iff]
  omega

/-- Settles O5: the offsets are those of the table, and `regAt` and `offset` undo each other on them. -/
theorem registerMapIsOneToOne : Obligations.RegisterMapIsOneToOne :=
  ⟨rfl, rfl, rfl, rfl, rfl, rfl, fun _ => rfl, fun _ => rfl, fun _ => rfl, fun _ => rfl, fun _ => rfl, fun _ => rfl,
    fun _ => rfl, fun _ => rfl, fun _ => rfl, fun _ => rfl, fun _ => rfl, fun _ => rfl,
    fun r => ⟨offset_lt r, regAt_offset r⟩, fun _ _ => offset_of_regAt, fun _ => regAt_eq_none_iff⟩

end Sys2Proof.Machine
end

section
/-! PROOF. The accesses of the window (20_memory.md R82 to R88, 10_state.md R33 to R54, 60_exceptions.md R300 to R308).
-/

namespace Sys2Proof.Machine

open Sys2Proof Sys2Proof.Safety

/-- A refused read is the record of its error, and nothing else (R303). -/
theorem refuseRead_eq_afterError (code : ErrCode) (info : Word) (s : State) :
    refuseRead code info s = afterError code info (.read 0 code.busErr) s := by
  cases h : s.err <;> simp [refuseRead_eq, raiseError, afterError, answer, h]

/-- An access that is misaligned or partial, or in a reserved gap, reaches no register (R82, R85). -/
theorem accessedReg_eq_none {a : BusAccess} (h : a.addr.toNat % 4 ≠ 0 ∨ a.be ≠ 0xF ∨ unmapped a.addr.toNat = true) :
    accessedReg a = none := by
  unfold accessedReg
  split
  · refine (regAt_eq_none_iff a.addr.isLt).mpr ?_
    rcases h with h | h | h
    · exact .inl h
    · exact absurd ‹_› h
    · exact .inr h
  · rfl

/-- The offset of an access is that of the register it reaches (R30). -/
theorem offset_of_accessedReg {a : BusAccess} {r : Reg} (h : accessedReg a = some r) : r.offset = a.addr.toNat := by
  unfold accessedReg at h
  split at h
  · exact offset_of_regAt h
  · cases h

/-- The read-only offsets as ranges (R86). -/
theorem readOnly_iff (off : Nat) : readOnly off = true ↔ off = 0x000 ∨ off = 0x014 ∨ (0x018 ≤ off ∧ off ≤ 0x01F) ∨
    (0x020 ≤ off ∧ off ≤ 0x02F) ∨ (0x140 ≤ off ∧ off ≤ 0x14F) := by
  simp [readOnly, or_assoc]

/-- The registers at the read-only offsets are those of classes RO and TAG (R54, R86). -/
theorem accessClass_of_readOnly {r : Reg} (h : readOnly r.offset = true) :
    r.accessClass = .ro ∨ r.accessClass = .tag := by
  cases r with
  | id | errinfo | sigf k | prime k => exact .inl rfl
  | tag k => exact .inr rfl
  | cmd | status | irqen | phase => exact absurd h (by decide)
  | state k | key k | nonce k | ctr k | seed k | pctr k | r k | s k | acc k =>
    rw [readOnly_iff, Reg.offset] at h
    omega

/-- Settles O6: the access reaches no register, or it is a write that reaches a read-only one. -/
theorem badAccessIsRecordedAndDropped : Obligations.BadAccessIsRecordedAndDropped := by
  intro s a h
  rw [BitVec.ofNat_toNat]
  cases hw : a.write with
  | false =>
    have hreg : accessedReg a = none := accessedReg_eq_none (by simpa [hw] using h)
    exact (busAccess_read_none hw hreg).trans (refuseRead_eq_afterError .badAccess _ s)
  | true =>
    refine Eq.trans ?_ (refuseWrite_eq_afterError .badAccess _ s)
    cases hreg : accessedReg a with
    | none => exact busAccess_write_none hw hreg
    | some r =>
      have hro : readOnly r.offset = true := by
        by_contra hwritable
        rw [offset_of_accessedReg hreg] at hwritable
        rw [accessedReg_eq_none (by tauto)] at hreg
        cases hreg
      exact busAccess_write_readOnly hw hreg (accessClass_of_readOnly hro)

/-- `wr REG` of a register the host may write now: the value is stored, and the access answered (R38, R54). -/
theorem busAccess_regWrite_stored {s : State} {r : Reg}
    (hc : r.accessClass = .rw ∨ (r.accessClass = .rwIdle ∧ s.busy = false)) (v : Word) :
    busAccess (regWrite r v) s = answer (.write false) (storeReg v s r) :=
  busAccess_write_stored rfl (accessedReg_regWrite r v) hc

/-- Settles O7: a store changes its own register, and there the writable bits. -/
theorem writtenRegisterReadsBackAlone : Obligations.WrittenRegisterReadsBackAlone := by
  intro s r v p hc
  obtain ⟨-, -, -, -, -, hlatch, -, hdraws⟩ := storeReg_keeps v s r
  rw [busAccess_regWrite_stored hc]
  refine ⟨rfl, ?_, fun q hq => ?_, hlatch, hdraws⟩
  · rw [readReg_answer, readReg_storeReg_same p s r v (hc.imp id And.left)]
  · rw [readReg_answer, readReg_storeReg_other p s r q v hq]

/-- A read is free while BUSY = 1 exactly for the RW-idle registers and TAG (R357). -/
theorem freeWhileBusy_iff (r : Reg) : r.freeWhileBusy = true ↔ r.accessClass = .rwIdle ∨ r.accessClass = .tag := by
  simp [Reg.freeWhileBusy]

/-- Settles O8: such a read is not free, so it answers the value. -/
theorem legalReadAnswersTheRegisterAndChangesNothing : Obligations.LegalReadAnswersTheRegisterAndChangesNothing := by
  intro s r h
  refine busAccess_regRead_value ?_
  rcases h with h | h | h | h | h <;> simp [Reg.freeWhileBusy, h]

/-- Settles O10, by the access class of the register. -/
theorem readWhileBusyIsAFreeValue : Obligations.ReadWhileBusyIsAFreeValue := by
  intro s r hb
  refine ⟨fun hc => ?_, fun hidle htag => ?_⟩
  · rw [busAccess_read_free rfl (accessedReg_regRead r) (by rw [hb, (freeWhileBusy_iff r).mpr hc]; rfl)]
    rfl
  · refine busAccess_regRead_value ?_
    simp [Reg.freeWhileBusy, hidle, htag]

/-- Settles O11: the fields lie side by side in STATUS, so each bit is a bit of one field. -/
theorem statusReadsItsFields : Obligations.StatusReadsItsFields := by
  intro s p
  change (statusWord s).getLsbD 0 = _ ∧ (statusWord s).getLsbD 1 = _ ∧ (statusWord s).getLsbD 2 = _ ∧
    (statusWord s).getLsbD 3 = _ ∧ (statusWord s).extractLsb' 4 4 = s.errcode.toBits ∧
    ∀ j, 8 ≤ j → (statusWord s).getLsbD j = false
  refine ⟨by simp [statusWord], getLsbD_statusWord_done s, getLsbD_statusWord_err s, by simp [statusWord], ?_, ?_⟩
  · apply BitVec.eq_of_getLsbD_eq
    intro j hj
    interval_cases j <;> simp [statusWord]
  · intro j hj
    have hcode : s.errcode.toBits.getLsbD (j - 4) = false := BitVec.getLsbD_of_ge _ _ (by omega)
    have hflag (b : Bool) (k : Nat) (hk : k < 3) : (BitVec.ofBool b).getLsbD (j - k) = false :=
      BitVec.getLsbD_of_ge _ _ (by omega)
    simp [statusWord, hcode, hflag, show j ≠ 0 by omega]

/-- Settles O12: the W1C actions, field by field. -/
theorem statusWriteClearsDoneAndError : Obligations.StatusWriteClearsDoneAndError := by
  intro s v
  rw [busAccess_regWrite_status, writeStatus_eq]
  rfl

/-- Settles O14: the word of a well-formed command decodes to it, and passes every check of R302. -/
theorem readyCoreAcceptsEveryWellFormedCommand : Obligations.ReadyCoreAcceptsEveryWellFormedCommand := by
  intro s i hb he hi
  have haccept : writeCmd (encode i) s = answer (.write false) (accept (encode i) s) := by
    simp [writeCmd, he, hb, decodeOfEncodeIsTheCommand i, hi]
  rw [issue, busAccess_write_cmd rfl (accessedReg_regWrite .cmd _) rfl]
  refine haccept.trans ?_
  rw [← opField_encode i]
  rfl

/-- Settles O16: the law of an access while BUSY = 1. -/
theorem accessWhileBusyLeavesTheCommandItsInputs : Obligations.AccessWhileBusyLeavesTheCommandItsInputs :=
  fun _ _ hb => busAccess_busy hb

/-- Settles O18: a refusal records nothing more while ERR = 1, a write to CMD accepts nothing, and no other access but
the
write to STATUS reaches the error record or the latch. -/
theorem firstErrorIsKeptUntilCleared : Obligations.FirstErrorIsKeptUntilCleared := by
  intro s a he hstatus
  rcases busAccess_cases a s with ⟨code, ans, -, h⟩ | h | ⟨hreg, hw, -⟩ | ⟨r, -, -, -, h⟩ | ⟨v, h⟩ | ⟨v, h⟩
  case inl => rw [h]; simp [he]
  case inr.inl =>
    rcases writeCmd_cases a.wdata s with ⟨-, hc⟩ | ⟨hclear, -⟩ | ⟨hclear, -⟩
    · rw [h, hc]
      exact ⟨he, rfl, rfl, rfl, rfl⟩
    · rw [he] at hclear
      cases hclear
    · rw [he] at hclear
      cases hclear
  case inr.inr.inl => exact absurd hreg (hstatus hw)
  case inr.inr.inr.inl =>
    obtain ⟨hbusy, -, herr, hcode, hinfo, hlatch, -, -⟩ := storeReg_keeps a.wdata s r
    rw [h]
    exact ⟨herr.trans he, hcode, hinfo, hbusy, hlatch⟩
  case inr.inr.inr.inr.inl | inr.inr.inr.inr.inr =>
    rw [h]
    exact ⟨he, rfl, rfl, rfl, rfl⟩

end Sys2Proof.Machine
end

section
/-! PROOF. MIX and its inverse, and MIX at four places of an array (40_arx.md R150 to R153). -/

namespace Sys2Proof.Machine

open Sys2Proof

/-- A rotation is undone by the rotation that completes it to a whole turn (R13). -/
theorem rotl_rotl_cancel (x : Word) {m n : Nat} (h : m + n = 32) : rotl (rotl x m) n = x := by
  obtain rfl : n = 32 - m := by omega
  apply BitVec.eq_of_getLsbD_eq
  intro j hj
  simp only [rotl, BitVec.getLsbD_or, BitVec.getLsbD_shiftLeft, BitVec.getLsbD_ushiftRight]
  grind

theorem xor_xor_cancel {n : Nat} (x y : BitVec n) : x ^^^ y ^^^ y = x := by
  rw [BitVec.xor_assoc, BitVec.xor_self, BitVec.xor_zero]

/-- MIX backwards: its sixteen statements undone, the last first (R153 (b)). -/
def unmix (x : Four) : Four :=
  let ⟨a, b, c, d⟩ := x
  let d := rotl d 25; let c := c + b; let b := b - c; let a := a ^^^ d
  let d := d + c; let c := c - a; let b := b ^^^ d; let a := rotl a 19
  let d := d - b; let c := c ^^^ d; let b := rotl b 15; let a := a + c
  let d := d ^^^ a; let c := rotl c 21; let b := b + c; let a := a - b
  ⟨a, b, c, d⟩

theorem unmix_mix (x : Four) : unmix (mix x) = x := by
  simp only [mix, unmix, BitVec.sub_add_cancel, BitVec.add_sub_cancel, xor_xor_cancel,
    rotl_rotl_cancel _ (show 11 + 21 = 32 from rfl), rotl_rotl_cancel _ (show 17 + 15 = 32 from rfl),
    rotl_rotl_cancel _ (show 13 + 19 = 32 from rfl), rotl_rotl_cancel _ (show 7 + 25 = 32 from rfl)]

theorem mix_unmix (x : Four) : mix (unmix x) = x := by
  simp only [mix, unmix, BitVec.sub_add_cancel, BitVec.add_sub_cancel, xor_xor_cancel,
    rotl_rotl_cancel _ (show 21 + 11 = 32 from rfl), rotl_rotl_cancel _ (show 15 + 17 = 32 from rfl),
    rotl_rotl_cancel _ (show 19 + 13 = 32 from rfl), rotl_rotl_cancel _ (show 25 + 7 = 32 from rfl)]

theorem mix_zero : mix ⟨0, 0, 0, 0⟩ = ⟨0, 0, 0, 0⟩ := by decide

/-- Settles O23: `unmix` undoes MIX from either side. -/
theorem mixIsABijectionThatFixesZero : Obligations.MixIsABijectionThatFixesZero :=
  ⟨mix_zero, Function.bijective_iff_has_inverse.mpr ⟨unmix, unmix_mix, mix_unmix⟩⟩

end Sys2Proof.Machine
end


section
/-! PROOF. The groups of the block permutation: MIX on one of them, on two disjoint ones, and on all (41_permutation.md
R170 to
R175). -/

namespace Sys2Proof.Machine

open Sys2Proof Sys2Proof.Safety

/-- The four positions of a group. -/
def Group.indices (g : Group) : List (Fin 16) := [g.a, g.b, g.c, g.d]

/-- The four words a group names. -/
def Group.words (g : Group) (x : Vector Word 16) : Four := ⟨x[g.a], x[g.b], x[g.c], x[g.d]⟩

/-- Four words put in the places of a group. -/
def Group.put (g : Group) (m : Four) (x : Vector Word 16) : Vector Word 16 :=
  (((x.set g.a m.a).set g.b m.b).set g.c m.c).set g.d m.d

theorem mixGroup_eq (x : Vector Word 16) (g : Group) : mixGroup x g = g.put (mix (g.words x)) x := rfl

/-- A word of a block after four words are put in it. -/
theorem Group.getElem_put (g : Group) (m : Four) (x : Vector Word 16) (j : Fin 16) :
    (g.put m x)[j] =
      if g.d = j then m.d else if g.c = j then m.c else if g.b = j then m.b else if g.a = j then m.a else x[j] := by
  simp only [Group.put, getElem_set_fin]

theorem block_ext {x y : Vector Word 16} (h : ∀ j : Fin 16, x[j] = y[j]) : x = y :=
  Vector.ext fun j hj => h ⟨j, hj⟩

/-- A word outside a group stays. -/
theorem Group.getElem_put_other {g : Group} {j : Fin 16} (h : j ∉ g.indices) (m : Four) (x : Vector Word 16) :
    (g.put m x)[j] = x[j] := by
  simp only [Group.indices, List.mem_cons, List.not_mem_nil, or_false, not_or] at h
  obtain ⟨ha, hb, hc, hd⟩ := h
  rw [Group.getElem_put, if_neg (Ne.symm hd), if_neg (Ne.symm hc), if_neg (Ne.symm hb), if_neg (Ne.symm ha)]

/-- The words put in four distinct places are read there. -/
theorem Group.words_put {g : Group} (hg : g.indices.Nodup) (m : Four) (x : Vector Word 16) :
    g.words (g.put m x) = m := by
  simp only [Group.indices, List.nodup_cons, List.mem_cons, List.not_mem_nil, or_false, not_or] at hg
  obtain ⟨⟨hab, hac, had⟩, ⟨hbc, hbd⟩, hcd, -⟩ := hg
  simp only [Group.words, Group.getElem_put, hab, hac, had, hbc, hbd, hcd, Ne.symm hab, Ne.symm hac, Ne.symm had,
    Ne.symm hbc, Ne.symm hbd, Ne.symm hcd, if_true, if_false]

/-- The words of a block put back where they stand. -/
theorem Group.put_words (g : Group) (x : Vector Word 16) : g.put (g.words x) x = x := by
  simp [Group.put, Group.words]

/-- Of two puts in one group only the second is seen. -/
theorem Group.put_put (g : Group) (m m' : Four) (x : Vector Word 16) : g.put m (g.put m' x) = g.put m x := by
  apply block_ext
  intro j
  simp only [Group.getElem_put]
  grind

/-- A put leaves the words of a disjoint group alone. -/
theorem Group.words_put_disjoint {g h : Group} (hgh : ∀ j ∈ g.indices, j ∉ h.indices) (m : Four) (x : Vector Word 16) :
    g.words (h.put m x) = g.words x := by
  simp only [Group.indices, List.forall_mem_cons] at hgh
  obtain ⟨ha, hb, hc, hd, -⟩ := hgh
  simp only [Group.words, Group.getElem_put_other ha, Group.getElem_put_other hb, Group.getElem_put_other hc,
    Group.getElem_put_other hd]

/-- Puts in disjoint groups commute. -/
theorem Group.put_comm {g h : Group} (hgh : ∀ j ∈ g.indices, j ∉ h.indices) (m n : Four) (x : Vector Word 16) :
    g.put m (h.put n x) = h.put n (g.put m x) := by
  apply block_ext
  intro j
  by_cases hj : j ∈ g.indices
  · rw [Group.getElem_put_other (hgh j hj), Group.getElem_put, Group.getElem_put g, Group.getElem_put_other (hgh j hj)]
  · rw [Group.getElem_put_other hj, Group.getElem_put, Group.getElem_put h, Group.getElem_put_other hj]

/-- MIX on disjoint groups commutes (R171). -/
theorem mixGroup_comm {g h : Group} (hgh : ∀ j ∈ g.indices, j ∉ h.indices) (x : Vector Word 16) :
    mixGroup (mixGroup x g) h = mixGroup (mixGroup x h) g := by
  have hhg : ∀ j ∈ h.indices, j ∉ g.indices := fun j hh hg => hgh j hg hh
  simp only [mixGroup_eq, Group.words_put_disjoint hgh, Group.words_put_disjoint hhg]
  exact (Group.put_comm hgh _ _ x).symm

/-- The groups of a half share no position (R170). -/
theorem columnGroups_disjoint :
    ∀ g ∈ columnGroups, ∀ h ∈ columnGroups, g = h ∨ ∀ j ∈ g.indices, j ∉ h.indices := by decide

theorem diagonalGroups_disjoint :
    ∀ g ∈ diagonalGroups, ∀ h ∈ diagonalGroups, g = h ∨ ∀ j ∈ g.indices, j ∉ h.indices := by decide

/-- The order of groups that share no position does not matter. -/
theorem foldl_mixGroup_perm {l m : List Group} (hp : l.Perm m)
    (hm : ∀ g ∈ m, ∀ h ∈ m, g = h ∨ ∀ j ∈ g.indices, j ∉ h.indices) (x : Vector Word 16) :
    l.foldl mixGroup x = m.foldl mixGroup x := by
  refine (hp.symm.foldl_eq' (fun g hg h hh z => ?_) x).symm
  rcases hm g hg h hh with rfl | hgh
  · rfl
  · exact mixGroup_comm hgh z

/-- Settles O28, half by half. -/
theorem groupOrderWithinAHalfIsImmaterial : Obligations.GroupOrderWithinAHalfIsImmaterial := by
  intro x cols diags hcols hdiags
  rw [roundF, List.foldl_append, List.foldl_append, foldl_mixGroup_perm hcols columnGroups_disjoint,
    foldl_mixGroup_perm hdiags diagonalGroups_disjoint]

/-- MIX on four distinct places is a bijection of blocks: unmixed in the same places, the block is as it was. -/
theorem mixGroup_bijective {g : Group} (hg : g.indices.Nodup) : Function.Bijective fun x => mixGroup x g := by
  refine Function.bijective_iff_has_inverse.mpr ⟨fun x => g.put (unmix (g.words x)) x, fun x => ?_, fun x => ?_⟩
  · simp only [mixGroup_eq, Group.words_put hg, unmix_mix, Group.put_put, Group.put_words]
  · simp only [mixGroup_eq, Group.words_put hg, mix_unmix, Group.put_put, Group.put_words]

/-- MIX on a block of zeros leaves it. -/
theorem mixGroup_zero (g : Group) : mixGroup (Vector.replicate 16 0) g = Vector.replicate 16 0 := by
  have hwords : g.words (Vector.replicate 16 0) = ⟨0, 0, 0, 0⟩ := by simp [Group.words]
  rw [mixGroup_eq, hwords, mix_zero, ← hwords, Group.put_words]

/-- The schedule names four distinct places in each group (R170). -/
theorem schedule_nodup : ∀ g ∈ columnGroups ++ diagonalGroups, g.indices.Nodup := by decide

theorem foldl_mixGroup_bijective {l : List Group} (hl : ∀ g ∈ l, g.indices.Nodup) :
    Function.Bijective fun x => l.foldl mixGroup x := by
  induction l with
  | nil => exact Function.bijective_id
  | cons g l ih =>
    rw [List.forall_mem_cons] at hl
    exact (ih hl.2).comp (mixGroup_bijective hl.1)

theorem foldl_mixGroup_zero (l : List Group) :
    l.foldl mixGroup (Vector.replicate 16 0) = Vector.replicate 16 0 := by
  induction l with
  | nil => rfl
  | cons g l ih => rw [List.foldl_cons, mixGroup_zero, ih]

theorem rounds_bijective (n : Nat) : Function.Bijective (rounds n) := by
  induction n with
  | zero => exact Function.bijective_id
  | succ n ih => exact ih.comp (foldl_mixGroup_bijective schedule_nodup)

theorem rounds_zero (n : Nat) : rounds n (Vector.replicate 16 0) = Vector.replicate 16 0 := by
  induction n with
  | zero => rfl
  | succ n ih => rw [rounds, roundF, foldl_mixGroup_zero, ih]

theorem permF_bijective : Function.Bijective permF := rounds_bijective 20

theorem permF_zero : permF (Vector.replicate 16 0) = Vector.replicate 16 0 := rounds_zero 20

/-- Settles O29: twenty iterations of eight bijections, each of which leaves the zero block alone. -/
theorem permIsABijectionThatFixesZero : Obligations.PermIsABijectionThatFixesZero := ⟨permF_zero, permF_bijective⟩

end Sys2Proof.Machine
end

section
/-! PROOF. The commands QR, ROUND and PERM (40_arx.md R151, R152, 41_permutation.md R171 to R174). -/

namespace Sys2Proof.Machine

open Sys2Proof Sys2Proof.Safety

/-- The check of R152 on the positions that the indices name. -/
theorem indicesDistinct_iff (a b c d : BitVec 4) :
    indicesDistinct a b c d = true ↔ a ≠ b ∧ a ≠ c ∧ a ≠ d ∧ b ≠ c ∧ b ≠ d ∧ c ≠ d := by
  simp [indicesDistinct, and_assoc]

theorem stateIndex_ne {a b : BitVec 4} (h : a ≠ b) : stateIndex a ≠ stateIndex b :=
  fun he => h (BitVec.eq_of_toNat_eq (congrArg Fin.val he))

/-- Settles O24: MIX at four distinct indices, and every other word as it was. -/
theorem qrMixesFourStateWords : Obligations.QrMixesFourStateWords := by
  intro s a b c d hab hac had hbc hbd hcd
  have hdistinct := (indicesDistinct_iff a b c d).mpr ⟨hab, hac, had, hbc, hbd, hcd⟩
  refine ⟨_, execQr_distinct hdistinct s, ?_, fun j ha hb hc hd => mixAt_other _ j ha hb hc hd, rfl⟩
  exact (mixAt_at (stateIndex_ne hab) (stateIndex_ne hac) (stateIndex_ne had) (stateIndex_ne hbc) (stateIndex_ne hbd)
    (stateIndex_ne hcd) s.block).symm

/-- Settles O25: the check fails, and the error is raised on the retired state (log 13). -/
theorem qrWithEqualIndicesRaisesQrAlias : Obligations.QrWithEqualIndicesRaisesQrAlias := by
  intro s a b c d h
  have hequal : indicesDistinct a b c d = false := by
    rw [← Bool.not_eq_true, indicesDistinct_iff]
    tauto
  refine (execQr_alias hequal s).trans ?_
  cases he : s.err <;> simp [raiseError, retire, he]

/-- What a command that only rewrites STATE leaves (R300). -/
def blockState (f : Vector Word 16 → Vector Word 16) (s : State) : State := complete { s with block := f s.block }

theorem exec_round (s : State) : exec .round s = .next (blockState roundF s) := rfl

theorem exec_perm (s : State) : exec .perm s = .next (blockState permF s) := rfl

theorem blockState_blockState (f g : Vector Word 16 → Vector Word 16) (s : State) :
    blockState g (blockState f s) = blockState (g ∘ f) s := rfl

/-- `qr.col k` is MIX on column group k (R125, R170). -/
theorem exec_qrCol (k : Fin 4) (s : State) : exec (qrCol k) s = .next (blockState (mixGroup · columnGroups[k]) s) := by
  match k with
  | 0 | 1 | 2 | 3 => rfl

/-- `qr.diag k` is MIX on diagonal group k (R125, R170). -/
theorem exec_qrDiag (k : Fin 4) (s : State) :
    exec (qrDiag k) s = .next (blockState (mixGroup · diagonalGroups[k]) s) := by
  match k with
  | 0 | 1 | 2 | 3 => rfl

/-- Commands that are MIX on one group each, run in turn. -/
theorem execAll_groups {l : List Instr} {gs : List Group}
    (h : List.Forall₂ (fun i g => ∀ s, exec i s = .next (blockState (mixGroup · g) s)) l gs) :
    ∀ s, execAll l s = .next (gs.foldl (fun t g => blockState (mixGroup · g) t) s) := by
  induction h with
  | nil => exact fun s => rfl
  | cons hi _ ih =>
    intro s
    rw [execAll, hi, List.foldl_cons]
    exact ih _

/-- MIX on one group after another, after a first rewrite of STATE, is one rewrite. -/
theorem foldl_blockState (gs : List Group) : ∀ (f : Vector Word 16 → Vector Word 16) (s : State),
    gs.foldl (fun t g => blockState (mixGroup · g) t) (blockState f s) =
      blockState (fun x => gs.foldl mixGroup (f x)) s := by
  induction gs with
  | nil => exact fun f s => rfl
  | cons g gs ih =>
    intro f s
    rw [List.foldl_cons, blockState_blockState, ih]
    rfl

/-- MIX on the eight groups of the schedule in turn is ROUNDF (R171). -/
theorem foldl_schedule (s : State) :
    (columnGroups ++ diagonalGroups).foldl (fun t g => blockState (mixGroup · g) t) s = blockState roundF s := by
  have hfirst : ∃ g gs, columnGroups ++ diagonalGroups = g :: gs := ⟨_, _, rfl⟩
  obtain ⟨g, gs, hgs⟩ := hfirst
  have hround : roundF = fun x => gs.foldl mixGroup (mixGroup x g) := by
    funext x
    rw [roundF, hgs, List.foldl_cons]
  rw [hgs, hround, List.foldl_cons, foldl_blockState]

/-- The eight QR commands of R125, on the eight groups of R170. -/
theorem qrCommands_groups :
    List.Forall₂ (fun i g => ∀ s, exec i s = .next (blockState (mixGroup · g) s))
      [qrCol 0, qrCol 1, qrCol 2, qrCol 3, qrDiag 0, qrDiag 1, qrDiag 2, qrDiag 3]
      (columnGroups ++ diagonalGroups) :=
  .cons (exec_qrCol 0) <| .cons (exec_qrCol 1) <| .cons (exec_qrCol 2) <| .cons (exec_qrCol 3) <|
    .cons (exec_qrDiag 0) <| .cons (exec_qrDiag 1) <| .cons (exec_qrDiag 2) <| .cons (exec_qrDiag 3) .nil

/-- Settles O26: each of the eight commands is MIX on its group, and ROUNDF is the eight in turn. -/
theorem roundIsEightQrCommands : Obligations.RoundIsEightQrCommands := by
  intro s
  refine ⟨blockState roundF s, exec_round s, ?_, rfl⟩
  rw [execAll_groups qrCommands_groups, foldl_schedule]

/-- A run of one command whose completion is known. -/
theorem execAll_replicate {i : Instr} {next : State → State} (hnext : ∀ s, exec i s = .next (next s)) (n : Nat) :
    ∀ s, execAll (List.replicate n i) s = .next (next^[n] s) := by
  induction n with
  | zero => exact fun s => rfl
  | succ n ih =>
    intro s
    rw [List.replicate_succ, execAll, hnext, Function.iterate_succ_apply]
    exact ih (next s)

/-- ROUND `n + 1` times is `n + 1` iterations of ROUNDF on STATE (R172). -/
theorem iterate_round (n : Nat) : ∀ s, (blockState roundF)^[n + 1] s = blockState (rounds (n + 1)) s := by
  induction n with
  | zero => exact fun s => rfl
  | succ n ih =>
    intro s
    rw [Function.iterate_succ_apply, ih, blockState_blockState]
    rfl

/-- Settles O27: PERMF is twenty iterations of ROUNDF. -/
theorem permIsTwentyRoundCommands : Obligations.PermIsTwentyRoundCommands := by
  intro s
  refine ⟨blockState permF s, exec_perm s, ?_, rfl⟩
  rw [execAll_replicate exec_round, iterate_round]
  rfl

end Sys2Proof.Machine
end

section
/-! PROOF. The counter derivations (42_counter.md R190 to R202). -/

namespace Sys2Proof.Machine

open Sys2Proof Sys2Proof.Safety

/-- The subtraction is of the words that the open clauses name (R191 (e) 1). -/
theorem subtracted_ctrSub (c : CtrClauses) (acc : Word × Word) : Subtracted c acc (ctrSub c acc) := by
  refine ⟨_, rfl, ?_⟩
  rw [ctrSub_cases]
  cases c.subMinuend <;> cases c.subTarget <;> rfl

/-- The xors of the xor-swap, in order (R191 (e) 1). -/
theorem xoredInTurn_foldl (l : List AccWord) (acc : Word × Word) : XoredInTurn l acc (l.foldl ctrXorOther acc) := by
  induction l generalizing acc with
  | nil => rfl
  | cons w l ih =>
    rw [XoredInTurn, List.foldl_cons, ← ctrXorOther_cases]
    exact ih _

/-- Parts 1 and 5 of an iteration, in either order of the two operations (R191 (e)). -/
theorem subtractedAndXorSwapped_ctrSubSwap (c : CtrClauses) (acc : Word × Word) :
    SubtractedAndXorSwapped c acc (ctrSubSwap c acc) := by
  unfold ctrSubSwap
  cases h : c.subFirst with
  | true => exact ⟨ctrSub c acc, by rw [h]; exact ⟨subtracted_ctrSub c acc, xoredInTurn_foldl _ _⟩⟩
  | false => exact ⟨ctrXorSwap c acc, by rw [h]; exact ⟨xoredInTurn_foldl _ _, subtracted_ctrSub c _⟩⟩

/-- Part 4 of an iteration, by the words its xor and its addition apply to (R191 (e) 4). -/
theorem ctrXorAdd_cases (c : CtrClauses) (sel : Word) (x : Word × Word) :
    ctrXorAdd c sel x =
      match c.xorTarget, c.xorAddTarget with
      | .a0, .a1 => (x.1 ^^^ sel, x.2 + sel)
      | .a1, .a0 => (x.1 + sel, x.2 ^^^ sel)
      | .a0, .a0 => (if c.xorFirst then (x.1 ^^^ sel) + sel else (x.1 + sel) ^^^ sel, x.2)
      | .a1, .a1 => (x.1, if c.xorFirst then (x.2 ^^^ sel) + sel else (x.2 + sel) ^^^ sel) := by
  unfold ctrXorAdd
  cases c.xorTarget <;> cases c.xorAddTarget <;> cases c.xorFirst <;> rfl

/-- The word that iteration `i + 1` selects (R191 (d), R195). -/
theorem ctrSelect_succ (p : Params) (s : State) (i : Nat) :
    ctrSelect p.ctr s.key (nonceF p.sigF s.nonce) (i + 1) =
      if (i % 2 == 0) == p.ctr.keyOnOdd then s.key[(i + 1) % 8]
      else if h : (i + 1) % 8 < 6 then s.nonce[(i + 1) % 8] else p.sigF[(i + 1) % 8 - 6] := by
  have hparity : ((i + 1) % 2 == 1) = (i % 2 == 0) := by
    rw [Bool.eq_iff_iff, beq_iff_eq, beq_iff_eq]
    omega
  rw [ctrSelect, hparity, ← getElem_nonceF _ _ _ (Nat.mod_lt _ (by decide))]
  rfl

/-- R195's table of word positions. -/
theorem positionTable (i : Fin 15) :
    ([1, 2, 3, 4, 5, 6, 7, 0, 1, 2, 3, 4, 5, 6, 7] : List (Fin 8))[i]? =
      some ⟨(i.val + 1) % 8, Nat.mod_lt _ (by decide)⟩ := by
  revert i
  decide

/-- R195's table of rotations. -/
theorem rotationTable (i : Fin 15) :
    [7, 14, 21, 28, 3, 10, 17, 24, 31, 6, 13, 20, 27, 2, 9][i]? = some (7 * (i.val + 1) % 32) := by
  revert i
  decide

/-- The accumulator of CTR_STEP as the sequence of its values (R191 (b), (c)). -/
theorem ctrAccumulator_values (c : CtrClauses) (key nf : Vector Word 8) :
    ∃ acc : Nat → Word × Word, acc 0 = (key[0], nf[0]) ∧
      (∀ i < 15, acc (i + 1) = ctrIteration c key nf (acc i) (i + 1)) ∧ ctrAccumulator c key nf = acc 15 := by
  obtain ⟨acc, hstart, hnext, hend⟩ := foldl_values (ctrIteration c key nf) (key[0], nf[0]) (List.range' 1 15) 0
  refine ⟨acc, hstart, fun i hi => ?_, hend⟩
  rw [hnext i (by simpa using hi)]
  congr 1
  simp [List.getD, hi, Nat.add_comm]

/-- Settles O30: the accumulator's values, each iteration's five parts read with the laws of its operations. -/
theorem ctrdDerivesTheCounterInFifteenIterations : Obligations.CtrdDerivesTheCounterInFifteenIterations := by
  intro p s
  obtain ⟨acc, hstart, hnext, hend⟩ := ctrAccumulator_values p.ctr s.key (nonceF p.sigF s.nonce)
  refine ⟨acc, ?start, fun i => ?iteration, ?state, rfl⟩
  case start => rw [hstart, getElem_nonceF]; rfl
  case iteration =>
    refine ⟨_, _, _, positionTable i, rotationTable i, rfl, _, _, _, _,
      subtractedAndXorSwapped_ctrSubSwap p.ctr (acc i.val), rfl, rfl, rfl, ?_⟩
    have hr : 7 * (i.val + 1) % 32 < 32 := Nat.mod_lt _ (by decide)
    rw [hnext i.val i.isLt, ctrIteration, ctrSelect_succ, rotl_eq_rotateLeft _ _ hr, rotl_eq_rotateLeft _ _ hr,
      ctrXorAdd_cases, ctrAdd_cases]
    exact subtractedAndXorSwapped_ctrSubSwap p.ctr _
  case state =>
    rw [← hend]
    rfl

/-- The selected word is one of the words that the parities leave (R194 (c), R195). -/
theorem ctrSelect_congr {c : CtrClauses} {key key' nf nf' : Vector Word 8}
    (hkey : ∀ m : Fin 8, (if c.keyOnOdd then m.val % 2 = 1 else m.val % 2 = 0) → key[m] = key'[m])
    (hnf : ∀ m : Fin 8, (if c.keyOnOdd then m.val % 2 = 0 else m.val % 2 = 1) → nf[m] = nf'[m]) (i : Nat) :
    ctrSelect c key nf i = ctrSelect c key' nf' i := by
  have hparity : i % 8 % 2 = i % 2 := by omega
  simp only [ctrSelect]
  split
  · refine hkey _ ?_
    cases hc : c.keyOnOdd <;> simp_all
  · refine hnf _ ?_
    cases hc : c.keyOnOdd <;> simp_all

/-- Settles O31: key and NF enter through the first accumulator and the selected words. -/
theorem counterIgnoresTheUnselectedWords : Obligations.CounterIgnoresTheUnselectedWords := by
  intro c key key' nf nf' hkey0 hnf0 hkey hnf
  have hiteration (acc : Word × Word) (i : Nat) : ctrIteration c key nf acc i = ctrIteration c key' nf' acc i := by
    rw [ctrIteration, ctrIteration, ctrSelect_congr hkey hnf]
  rw [ctrDerive, ctrDerive, ctrAccumulator, ctrAccumulator, hkey0, hnf0,
    List.foldl_ext _ _ _ fun acc i _ => hiteration acc i]

/-- MIX on the four words that a permutation of the indices names (R200 (b)). -/
theorem mix_mixAt_perm (q : Equiv.Perm (Fin 4)) (v : Vector Word 4) :
    mix ⟨v[q 0], v[q 1], v[q 2], v[q 3]⟩ =
      ⟨(mixAt (q 0) (q 1) (q 2) (q 3) v)[q 0], (mixAt (q 0) (q 1) (q 2) (q 3) v)[q 1],
        (mixAt (q 0) (q 1) (q 2) (q 3) v)[q 2], (mixAt (q 0) (q 1) (q 2) (q 3) v)[q 3]⟩ := by
  have hne {i j : Fin 4} (h : i ≠ j) : q i ≠ q j := q.injective.ne h
  exact (mixAt_at (hne (by decide)) (hne (by decide)) (hne (by decide)) (hne (by decide)) (hne (by decide))
    (hne (by decide)) v).symm

/-- Settles O32: the sixteen applications as the sequence of their vectors. -/
theorem pctrdDerivesTheCounterInSixteenMixes : Obligations.PctrdDerivesTheCounterInSixteenMixes := by
  intro p s
  obtain ⟨V, hstart, hnext, hend⟩ := foldl_values
    (fun v j => mixAt (p.prng.quad j 0) (p.prng.quad j 1) (p.prng.quad j 2) (p.prng.quad j 3) v)
    (p.prng.init s.seed p.prime) (List.range 16) 0
  refine ⟨V, hstart, fun j hj => ?_, ?_, rfl⟩
  · have hV := hnext j (by simpa using hj)
    rw [show (List.range 16).getD j 0 = j by simp [List.getD, hj]] at hV
    rw [hV]
    exact mix_mixAt_perm (p.prng.quad j) (V j)
  · have hlength : (List.range 16).length = 16 := rfl
    rw [hlength] at hend
    rw [← hend]
    rfl

end Sys2Proof.Machine
end

section
/-! PROOF. Runs of keystream blocks, and the PRNG block (43_keystream.md R222, R224, R225). -/

namespace Sys2Proof.Machine

open Sys2Proof Sys2Proof.Safety

/-- Settles O34: `n` completions of KSBLK in turn, and the counter they leave. -/
theorem counterAfterManyKeystreamBlocks : Obligations.CounterAfterManyKeystreamBlocks := by
  intro n s hs
  obtain ⟨hkey, hnonce, hctr, hksph⟩ := iterate_ksblkState hs n
  refine ⟨ksblkState^[n] s, execAll_replicate exec_ksblk n s, ?_, ?_, hksph, hkey, hnonce⟩ <;> rw [hctr] <;> rfl

/-- Block `n` of the PRNG advances word `n` mod 4: what each word has advanced by so far (R225). -/
theorem roundRobin_succ {n : Nat} {k : Fin 4} :
    (n + 1 + 3 - k.val) / 4 = (n + 3 - k.val) / 4 + if k.val = n % 4 then 1 else 0 := by
  split <;> omega

/-- What `n` PKSBLK commands leave from PPH = 0 (R225). -/
theorem iterate_pksblkState (p : Params) {s : State} (hs : s.pph = 0) (n : Nat) :
    (∀ k : Fin 4, ((pksblkState p)^[n] s).pctr[k] = s.pctr[k] + BitVec.ofNat 32 ((n + 3 - k.val) / 4)) ∧
      ((pksblkState p)^[n] s).pph.val = n % 4 ∧ ((pksblkState p)^[n] s).seed = s.seed := by
  induction n with
  | zero =>
    refine ⟨fun k => ?_, congrArg Fin.val hs, rfl⟩
    rw [show (0 + 3 - k.val) / 4 = 0 by omega]
    exact (BitVec.add_zero _).symm
  | succ n ih =>
    obtain ⟨hpctr, hpph, hseed⟩ := ih
    rw [Function.iterate_succ_apply', pksblkState_pctr, pksblkState_pph, pksblkState_seed]
    refine ⟨fun k => ?_, ?_, hseed⟩
    · rw [getElem_increment, hpctr, roundRobin_succ]
      simp only [Fin.ext_iff, hpph]
      split
      · rw [BitVec.ofNat_add, BitVec.add_assoc]
        rfl
      · rfl
    · rw [Fin.val_add, hpph]
      exact Nat.mod_add_mod n 4 1

/-- Settles O36: `n` completions of PKSBLK in turn, and the counter they leave. -/
theorem counterAfterManyPrngBlocks : Obligations.CounterAfterManyPrngBlocks := fun n s hs =>
  ⟨_, execAll_replicate exec_pksblk n s, iterate_pksblkState Config.params hs n⟩

/-- No word of PRIME is zero: each is a prime, whatever the free words are (R42). -/
theorem prime_ne_zero (k : Fin 4) : Config.params.prime[k] ≠ 0 := by
  show Config.prime[k.val] ≠ 0
  rw [Config.prime, Vector.getElem_map]
  split
  · rename_i hprime
    exact fun hzero => hprime.ne_zero (congrArg BitVec.toNat hzero)
  · decide

/-- Settles O37: PRIME stands in the block PERMF is applied to, and only the zero block goes to zero. -/
theorem prngBlockIsNeverZero : Obligations.PrngBlockIsNeverZero := by
  intro s
  refine ⟨pksblkState Config.params s, exec_pksblk s, fun hzero => prime_ne_zero 0 ?_⟩
  rw [pksblkState_block, ← permF_zero] at hzero
  have hload : loadP Config.params s = Vector.replicate 16 0 := permF_bijective.injective hzero
  have hword : (loadP Config.params s)[0] = Config.params.prime[0] := getElem_loadP _ s 0 (by decide)
  rw [hload] at hword
  exact hword.symm

end Sys2Proof.Machine
end

section
/-! PROOF. The control commands (45_control.md R280, R281). -/

namespace Sys2Proof.Machine

open Sys2Proof Sys2Proof.Safety

/-- Settles O44: NOP is the completion step's own writes. -/
theorem nopOnlyCompletes : Obligations.NopOnlyCompletes := fun _ => rfl

/-- Settles O45: what ZERO stores is what reset stores (R59), and the completion step keeps the rest. -/
theorem zeroWipesEveryDataRegister : Obligations.ZeroWipesEveryDataRegister := by
  intro s
  obtain ⟨t, ht, hbusy, hdone, hlatch, hkept⟩ := exec_completes (i := .zero) rfl s
  have hdata : SameData t State.reset := by
    cases ht
    exact sameData_refl State.reset
  exact ⟨t, ht, hdata, hbusy, hdone, hlatch, hkept⟩

end Sys2Proof.Machine
end

section
/-! PROOF. The accumulator commands and the tag (44_poly1305.md R250 to R256). -/

namespace Sys2Proof.Machine

open Sys2Proof Sys2Proof.Safety

/-- Settles O39. -/
theorem pinitClearsTheAccumulator : Obligations.PinitClearsTheAccumulator := fun _ => rfl

/-- A residue modulo p stands in ACC exactly: 130 bits hold it (R250, R262). -/
theorem toNat_residue (n : Nat) : (BitVec.ofNat 130 (n % polyP)).toNat = n % polyP := by
  rw [BitVec.toNat_ofNat]
  exact Nat.mod_eq_of_lt ((Nat.mod_lt n (by decide)).trans (by decide))

/-- Settles O40: the residue that PABS stores is exact. -/
theorem pabsAbsorbsAWordModuloP : Obligations.PabsAbsorbsAWordModuloP := fun _ _ => ⟨_, rfl, toNat_residue _, rfl⟩

/-- Settles O41: the residue that PFIN stores is exact, and TAG is cut from it. -/
theorem pfinAddsSAndMasksTheTag : Obligations.PfinAddsSAndMasksTheTag := by
  intro s
  refine ⟨_, rfl, toNat_residue _, ?_, rfl⟩
  show (BitVec.ofNat 128 ((s.acc.toNat + s.authS.toNat) % polyP)).toNat =
    (BitVec.ofNat 130 ((s.acc.toNat + s.authS.toNat) % polyP)).toNat % 2 ^ 128
  rw [toNat_residue, BitVec.toNat_ofNat]

end Sys2Proof.Machine
end

section
/-! PROOF. The tag of a sequence of words (44_poly1305.md R250). -/

namespace Sys2Proof.Machine

open Sys2Proof Sys2Proof.Safety

/-- ACC after one word is absorbed (R255). -/
def absorbWord (r : BitVec 128) (acc : BitVec 130) (w : BitVec 16) : BitVec 130 :=
  BitVec.ofNat 130 ((acc.toNat + messageWord w) * r.toNat % polyP)

/-- The residue that PFIN stores after PINIT and a PABS for each word (R254 to R256). -/
def tagResidue (r s : BitVec 128) (ws : List (BitVec 16)) : Nat := ((ws.foldl (absorbWord r) 0).toNat + s.toNat) % polyP

/-- What PINIT, PABS of each word and PFIN leave. -/
def tagState (ws : List (BitVec 16)) (s : State) : State :=
  complete
    { s with
      acc := BitVec.ofNat 130 (tagResidue s.authR s.authS ws)
      tag := BitVec.ofNat 128 (tagResidue s.authR s.authS ws) }

/-- The polynomial of R250 without s: word `k` of `n` counts r to the power n - k. -/
def polySum (r : Nat) (ws : List Nat) : Nat := ∑ k : Fin ws.length, ws[k] * r ^ (ws.length - k.val)

theorem polySum_nil (r : Nat) : polySum r [] = 0 := Fin.sum_univ_zero _

theorem polySum_cons (r w : Nat) (ws : List Nat) :
    polySum r (w :: ws) = w * r ^ (ws.length + 1) + polySum r ws := by
  refine (Fin.sum_univ_succ _).trans ?_
  simp [polySum]

/-- Absorbing is Horner's rule: each word multiplies what stands in ACC by r (R250, R255). -/
theorem foldl_absorbWord_modEq (r : BitVec 128) (ws : List (BitVec 16)) : ∀ acc : BitVec 130,
    (ws.foldl (absorbWord r) acc).toNat ≡
      acc.toNat * r.toNat ^ ws.length + polySum r.toNat (ws.map BitVec.toNat) [MOD polyP] := by
  induction ws with
  | nil => exact fun acc => by simp [polySum_nil, Nat.ModEq.refl]
  | cons w ws ih =>
    intro acc
    have hword : (absorbWord r acc w).toNat ≡ (acc.toNat + w.toNat) * r.toNat [MOD polyP] := by
      rw [absorbWord, toNat_residue]
      exact Nat.mod_modEq _ _
    have hsplit : (acc.toNat + w.toNat) * r.toNat * r.toNat ^ ws.length + polySum r.toNat (ws.map BitVec.toNat) =
        acc.toNat * r.toNat ^ (ws.length + 1) +
          (w.toNat * r.toNat ^ (ws.length + 1) + polySum r.toNat (ws.map BitVec.toNat)) := by
      ring
    rw [List.map_cons, polySum_cons, List.length_map, List.length_cons, List.foldl_cons, ← hsplit]
    exact (ih _).trans ((hword.mul_right _).add_right _)

/-- TAG is the polynomial of the words, plus s, modulo p and masked (R250, R256). -/
theorem tagState_tag_toNat (ws : List (BitVec 16)) (s : State) :
    (tagState ws s).tag.toNat =
      (polySum s.authR.toNat (ws.map BitVec.toNat) + s.authS.toNat) % (2 ^ 130 - 5) % 2 ^ 128 := by
  have hsum := (foldl_absorbWord_modEq s.authR ws 0).add_right s.authS.toNat
  rw [show (0 : BitVec 130).toNat = 0 from rfl, Nat.zero_mul, Nat.zero_add] at hsum
  exact congrArg (· % 2 ^ 128) hsum

/-- PABS of each word, after a completion. -/
theorem execAll_pabs (ws : List (BitVec 16)) : ∀ s : State,
    execAll (ws.map .pabs) (complete s) = .next (complete { s with acc := ws.foldl (absorbWord s.authR) s.acc }) := by
  induction ws with
  | nil => exact fun s => rfl
  | cons w ws ih => exact fun s => ih { s with acc := absorbWord s.authR s.acc w }

theorem execAll_tag (ws : List (BitVec 16)) (s : State) :
    execAll ([.pinit] ++ ws.map .pabs ++ [.pfin]) s = .next (tagState ws s) := by
  have hpinit : execAll [.pinit] s = .next (complete { s with acc := 0 }) := rfl
  rw [execAll_append, execAll_append, hpinit]
  dsimp only
  rw [execAll_pabs]
  rfl

theorem polySum_map_toNat (r : Nat) (ws : List (BitVec 16)) :
    polySum r (ws.map BitVec.toNat) = ∑ k : Fin ws.length, ws[k].toNat * r ^ (ws.length - k.val) := by
  induction ws with
  | nil => rfl
  | cons w ws ih =>
    rw [List.map_cons, polySum_cons, ih, List.length_map]
    refine Eq.trans ?_ (Fin.sum_univ_succ _).symm
    simp

/-- Settles O43: the completion steps in turn, and Horner's rule. -/
theorem tagIsThePolynomialEvaluationPlusS : Obligations.TagIsThePolynomialEvaluationPlusS := by
  intro ws s
  refine ⟨tagState ws s, execAll_tag ws s, ?_, rfl⟩
  rw [tagState_tag_toNat, polySum_map_toNat]

end Sys2Proof.Machine
end

section
/-! PROOF. Words, bytes and the integers they stand for (00_scope.md R14, R16, 20_memory.md R84, 10_state.md R49 to
R52). -/

namespace Sys2Proof.Machine

open Sys2Proof Sys2Proof.Safety

/-- A word of a multi-word register as a number (R14). -/
theorem getWord_toNat {n : Nat} (x : BitVec n) (k : Nat) : (getWord x k).toNat = x.toNat / 2 ^ (32 * k) % 2 ^ 32 := by
  simp [getWord, Nat.shiftRight_eq_div_pow]

/-- A 128-bit register is the sum of its four words (R14). -/
theorem toNat_eq_sum_getWord (x : BitVec 128) : x.toNat = ∑ k : Fin 4, (getWord x k.val).toNat * 2 ^ (32 * k.val) := by
  have := x.isLt
  simp only [getWord_toNat, Fin.sum_univ_four, Fin.coe_ofNat_eq_mod, Nat.reduceMod, Nat.reduceMul, Nat.reducePow]
  omega

/-- Settles O59: the words of each register, and the last one of ACC above its two bits. -/
theorem multiWordRegistersAreTheSumsOfTheirWords : Obligations.MultiWordRegistersAreTheSumsOfTheirWords := by
  intro s p
  have hacc := s.acc.isLt
  have hsum : s.acc.toNat = ∑ k : Fin 5, (getWord s.acc k.val).toNat * 2 ^ (32 * k.val) := by
    simp only [getWord_toNat, Fin.sum_univ_five, Fin.coe_ofNat_eq_mod, Nat.reduceMod, Nat.reduceMul, Nat.reducePow]
    omega
  refine ⟨toNat_eq_sum_getWord s.authR, toNat_eq_sum_getWord s.authS, hsum, toNat_eq_sum_getWord s.tag, ?_⟩
  show (getWord s.acc 4).toNat < 4
  rw [getWord_toNat]
  omega

/-- The bytes of a word made of four bytes (R16). -/
theorem leBytes_leWord (b0 b1 b2 b3 : Byte) : leBytes (leWord b0 b1 b2 b3) = [b0, b1, b2, b3] := by
  have hsum := leWord_toNat b0 b1 b2 b3
  have h0 := b0.isLt
  have h1 := b1.isLt
  have h2 := b2.isLt
  have h3 := b3.isLt
  simp only [leBytes, byteOf, List.cons.injEq, and_true, BitVec.toNat_eq, BitVec.extractLsb'_toNat,
    Nat.shiftRight_eq_div_pow]
  omega

/-- Byte `j` of word `k` in the serialisation (R16). -/
theorem getD_wordBytes (ws : List Word) : ∀ {k : Nat} (hk : k < ws.length) (j : Nat),
    j < 4 → (wordBytes ws).getD (4 * k + j) 0 = (leBytes ws[k]).getD j 0 := by
  induction ws with
  | nil => exact fun hk => absurd hk (Nat.not_lt_zero _)
  | cons w ws ih =>
    intro k hk j hj
    have hlength : (leBytes w).length = 4 := rfl
    rw [wordBytes, List.flatMap_cons]
    cases k with
    | zero =>
      rw [Nat.mul_zero, Nat.zero_add]
      exact List.getD_append _ _ _ _ (by omega)
    | succ k =>
      rw [List.getD_append_right _ _ _ _ (by omega), hlength, show 4 * (k + 1) + j - 4 = 4 * k + j by omega]
      exact ih (Nat.lt_of_succ_lt_succ hk) j hj

/-- The bytes of the words of a byte list are the list, where it has four bytes a word (R16, R84). -/
theorem wordBytes_wordsOfBytes {n : Nat} {bs : List Byte} (h : bs.length = 4 * n) :
    wordBytes (wordsOfBytes n bs).toList = bs := by
  have hlength : (wordBytes (wordsOfBytes n bs).toList).length = bs.length := by
    rw [wordBytes_length, Vector.length_toList, h]
  refine List.ext_getElem hlength fun i hi hi' => ?_
  have hk : i / 4 < n := by omega
  have hbyte := getD_wordBytes (wordsOfBytes n bs).toList (k := i / 4) (by simpa using hk) (i % 4)
    (Nat.mod_lt _ (by decide))
  rw [Vector.getElem_toList, getElem_wordsOfBytes, leBytes_leWord, Nat.div_add_mod,
    List.getD_eq_getElem _ _ hi] at hbyte
  rw [hbyte, ← List.getD_eq_getElem bs 0 hi']
  have hi4 : i = 4 * (i / 4) + i % 4 := (Nat.div_add_mod i 4).symm
  have hj : i % 4 < 4 := Nat.mod_lt _ (by decide)
  conv_rhs => rw [hi4]
  generalize i % 4 = j at hj
  interval_cases j <;> rfl

/-- The words of the bytes of a word sequence are the sequence (R16, R84). -/
theorem wordsOfBytes_wordBytes {n : Nat} (ws : Vector Word n) : wordsOfBytes n (wordBytes ws.toList) = ws := by
  apply Vector.ext
  intro k hk
  have hbyte (j : Nat) (hj : j < 4) : (wordBytes ws.toList).getD (4 * k + j) 0 = (leBytes ws[k]).getD j 0 :=
    getD_wordBytes ws.toList (k := k) (by simpa using hk) j hj
  rw [getElem_wordsOfBytes, ← Nat.add_zero (4 * k), hbyte 0 (by decide), hbyte 1 (by decide), hbyte 2 (by decide),
    hbyte 3 (by decide)]
  exact leWord_byteOf ws[k]

/-- A word of a byte list as a number (R84). -/
theorem wordsOfBytes_toNat (n : Nat) (bs : List Byte) (k : Fin n) :
    (wordsOfBytes n bs)[k].toNat = ∑ j : Fin 4, (bs.getD (4 * k.val + j.val) 0).toNat * 256 ^ j.val := by
  rw [Fin.getElem_fin, getElem_wordsOfBytes, leWord_toNat, Fin.sum_univ_four]
  simp only [Fin.coe_ofNat_eq_mod, Nat.reduceMod, Nat.reducePow, Nat.add_zero]
  omega

/-- Settles O60: KEY, SEED and NONCE are the words of their bytes, eight, eight and six of them. -/
theorem bytesPackIntoLittleEndianWords : Obligations.BytesPackIntoLittleEndianWords :=
  ⟨fun bs h => ⟨wordsOfBytes_toNat 8 bs, wordsOfBytes_toNat 8 bs, wordBytes_wordsOfBytes h, wordBytes_wordsOfBytes h⟩,
    fun bs h => ⟨wordsOfBytes_toNat 6 bs, wordBytes_wordsOfBytes h⟩⟩

end Sys2Proof.Machine
end

section
/-! PROOF. `run` and TAG_OF on a ready core (30_encoding.md R124, R125, 44_poly1305.md R257 to R259). -/

namespace Sys2Proof.Machine

open Sys2Proof Sys2Proof.Safety

/-- Settles O53: the word of a command decodes to it, so `run` has its effect. -/
theorem runOfACommandHasItsEffect : Obligations.RunOfACommandHasItsEffect := by
  intro s i hs hi
  obtain ⟨u, hu, -⟩ := exec_completes hi s
  obtain ⟨t, ht, hdata, hr, hdone⟩ := run_ready hs (decodeOfEncodeIsTheCommand i) hi hu
  exact ⟨t, u, ht, hu, hdata, hr, hdone⟩

/-- `run X` on a ready core whose data are those of `r`: the data that X leaves from `r`. -/
theorem run_sameData {s r v : State} (hs : Ready s) (hsr : SameData s r) {i : Instr} (hi : i.wellFormed = true)
    (hv : exec i r = .next v) : ∃ t, run i s = some t ∧ SameData t v ∧ Ready t := by
  obtain ⟨t, u, ht, hu, hdata, hr, -⟩ := runOfACommandHasItsEffect s i hs hi
  exact ⟨t, ht, sameData_trans hdata (exec_sameData i hsr hu hv), hr⟩

/-- The PABS commands of TAG_OF absorb the words in turn (R257 step 3). -/
theorem absorb_ready (ws : List (BitVec 16)) : ∀ {s r : State}, Ready s → SameData s r →
    ∃ t, absorb ws s = some t ∧ SameData t { r with acc := ws.foldl (absorbWord r.authR) r.acc } ∧ Ready t := by
  induction ws with
  | nil => exact fun hs hsr => ⟨_, rfl, hsr, hs⟩
  | cons w ws ih =>
    intro s r hs hsr
    obtain ⟨t, ht, htr, hready⟩ := run_sameData (i := .pabs w) hs hsr rfl rfl
    obtain ⟨u, hu, hur⟩ := ih (r := { r with acc := absorbWord r.authR r.acc w }) hready htr
    exact ⟨u, by simp [absorb, ht, hu], hur⟩

/-- TAG_OF on a ready core: the data that PINIT, PABS of each message word and PFIN leave, and the bytes of TAG (R257,
R259). -/
theorem tagOf_ready (msgOrder tagOrder : ByteOrder) (m : List Byte) {s : State} (hs : Ready s) :
    ∃ t, tagOf msgOrder tagOrder m s = some (tagBytes tagOrder (tagState (messageWords msgOrder m) s).tag, t) ∧
      SameData t (tagState (messageWords msgOrder m) s) ∧ Ready t := by
  obtain ⟨t1, h1, d1, r1⟩ := run_sameData (i := .pinit) hs (sameData_refl s) rfl rfl
  obtain ⟨t2, h2, d2, r2⟩ := absorb_ready (messageWords msgOrder m) r1 d1
  obtain ⟨t3, h3, d3, r3⟩ := run_sameData (i := .pfin) r2 d2 rfl rfl
  obtain ⟨t4, h4, d4, r4⟩ := readTag_ready r3
  have hdata : SameData t3 (tagState (messageWords msgOrder m) s) := d3
  obtain ⟨-, -, -, -, -, -, -, -, -, htag, -⟩ := d3
  refine ⟨t4, ?_, sameData_trans d4 hdata, r4⟩
  simp only [tagOf, h1, h2, h3, h4, Option.bind_eq_bind, Option.bind_some]
  rw [htag]
  rfl

/-- The words of a message of even length, word `k` of bytes 2k and 2k + 1 (R258). -/
theorem pairWords_spec (order : ByteOrder) : ∀ m : List Byte, m.length % 2 = 0 →
    (pairWords order m).length = m.length / 2 ∧
      ∀ k, (hk : k < (pairWords order m).length) →
        (pairWords order m)[k] = wordOfBytes order (m.getD (2 * k) 0) (m.getD (2 * k + 1) 0)
  | [], _ => ⟨rfl, fun k hk => absurd hk (Nat.not_lt_zero k)⟩
  | [_], h => absurd h (by simp)
  | b0 :: b1 :: rest, h => by
    rw [List.length_cons, List.length_cons] at h ⊢
    obtain ⟨hlength, hwords⟩ := pairWords_spec order rest (by omega)
    refine ⟨by rw [pairWords, List.length_cons, hlength]; omega, fun k hk => ?_⟩
    cases k with
    | zero => rfl
    | succ k => exact hwords k (Nat.lt_of_succ_lt_succ hk)

/-- The padding byte counts as the 0 that stands for a missing byte (R257 step 1). -/
theorem padEven_spec (m : List Byte) :
    (padEven m).length = 2 * ((m.length + 1) / 2) ∧ ∀ i, (padEven m).getD i 0 = m.getD i 0 := by
  rcases Nat.mod_two_eq_zero_or_one m.length with h | h
  · rw [padEven_of_even h]
    exact ⟨by omega, fun _ => rfl⟩
  · rw [padEven_of_odd h]
    refine ⟨by rw [List.length_append, List.length_singleton]; omega, fun i => ?_⟩
    by_cases hi : i < m.length
    · exact List.getD_append _ _ _ _ hi
    · rw [List.getD_append_right _ _ _ _ (by omega), List.getD_eq_default m 0 (by omega)]
      cases i - m.length <;> rfl

/-- The words TAG_OF absorbs, a missing last byte counting as 0 (R257, R258). -/
theorem messageWords_spec (order : ByteOrder) (m : List Byte) :
    (messageWords order m).length = (m.length + 1) / 2 ∧
      ∀ k, (hk : k < (messageWords order m).length) →
        (messageWords order m)[k] = wordOfBytes order (m.getD (2 * k) 0) (m.getD (2 * k + 1) 0) := by
  obtain ⟨hpad, hbytes⟩ := padEven_spec m
  obtain ⟨hlength, hwords⟩ := pairWords_spec order (padEven m) (by omega)
  refine ⟨by rw [messageWords, hlength]; omega, fun k hk => ?_⟩
  rw [← hbytes, ← hbytes]
  exact hwords k hk

/-- The sixteen bytes of TAG in either order (R259). -/
theorem tagBytes_spec (order : ByteOrder) (tag : BitVec 128) :
    (tagBytes order tag).length = 16 ∧
      ∀ j : Fin 16, ((tagBytes order tag).getD j.val 0).toNat =
        match order with
        | .big => tag.toNat / 256 ^ (15 - j.val) % 256
        | .little => tag.toNat / 256 ^ j.val % 256 := by
  have hbyte (n : Nat) : (tag.extractLsb' (8 * n) 8).toNat = tag.toNat / 256 ^ n % 256 := by
    rw [BitVec.extractLsb'_toNat, Nat.shiftRight_eq_div_pow, Nat.pow_mul]
  refine ⟨by simp [tagBytes], fun j => ?_⟩
  cases order <;> simp [tagBytes, List.getD, hbyte]

/-- Settles O58: the words are those of the message, TAG is their polynomial, and its bytes are the answer. -/
theorem tagOfAnswersThePolynomialTag : Obligations.TagOfAnswersThePolynomialTag := by
  intro msgOrder tagOrder m s hs
  obtain ⟨t, ht, hdata, hr⟩ := tagOf_ready msgOrder tagOrder m hs
  obtain ⟨hlength, hwords⟩ := messageWords_spec msgOrder m
  obtain ⟨hblock, hkey, hnonce, hctr, hseed, hpctr, hauthR, hauthS, -, htag, hksph, hpph⟩ := hdata
  obtain ⟨hlength16, hbytes⟩ := tagBytes_spec tagOrder (tagState (messageWords msgOrder m) s).tag
  refine ⟨(messageWords msgOrder m).map BitVec.toNat, _, t, ht, ?_, fun k => ?_, ?_, hlength16, ?_,
    ⟨hblock, hkey, hnonce, hctr, hseed, hpctr, hauthR, hauthS, rfl, rfl, hksph, hpph⟩, hr⟩
  · rw [List.length_map, hlength]
  · rw [Fin.getElem_fin, List.getElem_map, hwords]
    exact wordOfBytes_toNat msgOrder _ _
  · rw [htag]
    exact tagState_tag_toNat _ s
  · rw [htag]
    exact hbytes

end Sys2Proof.Machine
end

section
/-! PROOF. The round trip of the host's AEAD (44_poly1305.md R260, 43_keystream.md R229; log 23). -/

namespace Sys2Proof.Machine

open Sys2Proof Sys2Proof.Safety

/-- The `L` bytes of keystream under a key, a nonce and a first counter (R228). -/
def keystream (K : Vector Word 8) (N : Vector Word 6) (C : Vector Word 2) (L : Nat) : List Byte :=
  ((List.range ((L + 63) / 64)).flatMap fun n => wordBytes (permF (K ++ N ++ ctrAfter C n)).toList).take L

theorem keystream_length (K : Vector Word 8) (N : Vector Word 6) (C : Vector Word 2) (L : Nat) :
    (keystream K N C L).length = L := by
  have hblocks : L ≤ (L + 63) / 64 * 64 := by omega
  simp [keystream, List.length_flatMap, wordBytes_length, hblocks]

/-- KS_BYTES on a ready core: the keystream, and the counter after its blocks (R222, R227). -/
theorem ksBytes_ready {s : State} (hs : Ready s) (K : Vector Word 8) (N : Vector Word 6) (C : Vector Word 2) (L : Nat) :
    ∃ t, ksBytes K N C L s = some (keystream K N C L, t) ∧ t.key = K ∧ t.nonce = N ∧
      t.ctr = ctrAfter C ((L + 63) / 64) ∧ Ready t := by
  obtain ⟨t, ht, hctr, -, hkey, hnonce, hr⟩ := ksBytesAreTheBlocksOfTheAdvancingCounter K N C L s hs
  exact ⟨t, ht, hkey, hnonce, hctr, hr⟩

/-- The counter that CTRD derives from a key and a nonce (R193). -/
def aeadCtr (K : Vector Word 8) (N : Vector Word 6) : Vector Word 2 :=
  ctrDerive Config.params.ctr K (nonceF Config.params.sigF N)

/-- The ciphertext of a message (R229, R260). -/
def ciphertext (m : List Byte) (K : Vector Word 8) (N : Vector Word 6) : List Byte :=
  xorBytes m (keystream K N (aeadCtr K N) m.length)

/-- The two writes that begin an AEAD procedure (R260). -/
theorem aeadXor_writes {s : State} (hs : Ready s) (K : Vector Word 8) (N : Vector Word 6) :
    ∃ t, writeRegs (wordWrites .key K ++ wordWrites .nonce N) s = some t ∧ Ready t ∧ t.key = K ∧ t.nonce = N := by
  have hregs : (wordWrites .key K ++ wordWrites .nonce N).map Prod.fst =
      (List.finRange 8).map Reg.key ++ (List.finRange 6).map Reg.nonce := by
    rw [List.map_append, map_fst_wordWrites, map_fst_wordWrites]
  obtain ⟨t, ht, hr, hback⟩ := writeRegs_readBack hs hregs (by decide) (by decide)
  obtain ⟨hkey, hnonce⟩ := List.forall_mem_append.mp hback
  exact ⟨t, ht, hr, file_eq_of_readBack (fun _ => rfl) (fun _ => rfl) hkey,
    file_eq_of_readBack (fun _ => rfl) (fun _ => rfl) hnonce⟩

/-- The counter read back word by word, as one register (R260 step 1). -/
theorem ctr_of_words (x : Vector Word 2) : #v[x[0], x[1]] = x := by
  apply Vector.ext
  intro j hj
  interval_cases j <;> rfl

/-- The message under the keystream of the derived counter (R260 encrypt steps 1 and 2, decrypt step 3). -/
theorem aeadXor_ready {s : State} (hs : Ready s) (m : List Byte) (K : Vector Word 8) (N : Vector Word 6) :
    ∃ t, aeadXor m K N s = some (ciphertext m K N, aeadCtr K N, t) ∧ t.key = K ∧ t.nonce = N ∧
      t.ctr = ctrAfter (aeadCtr K N) ((m.length + 63) / 64) ∧ Ready t := by
  obtain ⟨t1, h1, r1, rfl, rfl⟩ := aeadXor_writes hs K N
  obtain ⟨t2, h2, ⟨-, -, -, hctr, -⟩, r2⟩ := run_sameData (i := .ctrd) r1 (sameData_refl t1) rfl rfl
  have hwords : #v[readReg Config.params t2 (.ctr 0), readReg Config.params t2 (.ctr 1)] = aeadCtr t1.key t1.nonce :=
    (ctr_of_words t2.ctr).trans hctr
  have hc0 := rd_ready r2 (.ctr 0)
  have hc1 := rd_ready (s := answer (.read (readReg Config.params t2 (.ctr 0)) false) t2) r2 (.ctr 1)
  have r3 : Ready (answer (.read (readReg Config.params t2 (.ctr 1)) false)
      (answer (.read (readReg Config.params t2 (.ctr 0)) false) t2)) := r2
  obtain ⟨t, ht, hend⟩ := ksBytes_ready r3 t1.key t1.nonce (aeadCtr t1.key t1.nonce) m.length
  refine ⟨t, ?_, hend⟩
  rw [readReg_answer] at hc1
  simp only [aeadXor, h1, h2, hc0, hc1, hwords, ht, Option.bind_eq_bind, Option.bind_some]
  rfl

/-- The counter that PKEYGEN reads, after the keystream of a message (R260, `AUTH_CTR_SOURCE`). -/
def authCtr (h : HostParams) (L : Nat) (C : Vector Word 2) : Vector Word 2 :=
  match h.ctrSource with
  | .initial => C
  | .advanced => ctrAfter C ((L + 63) / 64)

/-- The tag of a plaintext under the one-time key of a block (R251, R257). -/
def oneTimeTag (h : HostParams) (plain : List Byte) (block : Vector Word 16) : BitVec 128 :=
  let x := permF block
  BitVec.ofNat 128 (tagResidue (keyInt Config.params.rsOrder ((keyBytes x).take 16))
    (keyInt Config.params.rsOrder ((keyBytes x).drop 16)) (messageWords h.msgOrder plain))

/-- The tag bytes of a plaintext (R260). -/
def aeadTagBytes (h : HostParams) (m : List Byte) (K : Vector Word 8) (N : Vector Word 6) : List Byte :=
  tagBytes h.tagOrder (oneTimeTag h m (K ++ N ++ authCtr h m.length (aeadCtr K N)))

theorem aeadTagBytes_length (h : HostParams) (m : List Byte) (K : Vector Word 8) (N : Vector Word 6) :
    (aeadTagBytes h m K N).length = 16 :=
  (tagBytes_spec _ _).1

/-- The write of CTR back to the first counter: KEY and NONCE stay (R260). -/
theorem writeCtr_ready {s : State} (hs : Ready s) (C : Vector Word 2) :
    ∃ t, writeRegs (wordWrites .ctr C) s = some t ∧ Ready t ∧ t.ctr = C ∧ t.key = s.key ∧ t.nonce = s.nonce := by
  have hregs := map_fst_wordWrites Reg.ctr C
  have hidle : ∀ r ∈ (wordWrites .ctr C).map Prod.fst, r.accessClass = .rwIdle := by rw [hregs]; decide
  have hdistinct : ((wordWrites .ctr C).map Prod.fst).Nodup := by rw [hregs]; decide
  obtain ⟨t, ht, hr, hback, hkept⟩ :=
    writeRegs_ready (wordWrites .ctr C) hs (fun x hx => hidle _ (List.mem_map_of_mem hx)) hdistinct
  rw [hregs] at hkept
  exact ⟨t, ht, hr, file_eq_of_readBack (fun _ => rfl) (fun _ => rfl) (hback Config.params),
    Vector.ext fun k hk => hkept Config.params (.key ⟨k, hk⟩) (by simp),
    Vector.ext fun k hk => hkept Config.params (.nonce ⟨k, hk⟩) (by simp)⟩

/-- The one-time key derived from a block, and the tag of the plaintext under it (R251, R257). -/
theorem pkeygen_tagOf_ready {s : State} (hs : Ready s) (h : HostParams) (plain : List Byte) :
    ∃ t u, run .pkeygen s = some t ∧
      tagOf h.msgOrder h.tagOrder plain t = some (tagBytes h.tagOrder (oneTimeTag h plain (loadC s)), u) := by
  obtain ⟨t, ht, hdata, hr⟩ := run_sameData hs (sameData_refl s) rfl (exec_pkeygen s)
  obtain ⟨u, hu, -⟩ := tagOf_ready h.msgOrder h.tagOrder plain hr
  obtain ⟨-, -, -, -, -, -, hauthR, hauthS, -⟩ := hdata
  have htag : (tagState (messageWords h.msgOrder plain) t).tag = oneTimeTag h plain (loadC s) := by
    show BitVec.ofNat 128 (tagResidue t.authR t.authS _) = _
    rw [hauthR, hauthS]
    rfl
  exact ⟨t, u, ht, by rw [hu, htag]⟩

/-- The tag of the plaintext, from the core that the keystream leaves (R260 encrypt steps 3 to 5, decrypt step 4). -/
theorem aeadTag_ready {s : State} (hs : Ready s) (h : HostParams) (plain : List Byte)
    (hctr : s.ctr = ctrAfter (aeadCtr s.key s.nonce) ((plain.length + 63) / 64)) :
    ∃ t, aeadTag h plain (aeadCtr s.key s.nonce) s = some (aeadTagBytes h plain s.key s.nonce, t) := by
  unfold aeadTag aeadTagBytes authCtr
  cases h.ctrSource with
  | initial =>
    obtain ⟨u, hu, hur, huctr, hkey, hnonce⟩ := writeCtr_ready hs (aeadCtr s.key s.nonce)
    obtain ⟨t, v, ht, hv⟩ := pkeygen_tagOf_ready hur h plain
    refine ⟨v, ?_⟩
    simp only [hu, ht, hv, loadC, huctr, hkey, hnonce, Option.bind_eq_bind, Option.bind_some]
  | advanced =>
    obtain ⟨t, v, ht, hv⟩ := pkeygen_tagOf_ready hs h plain
    refine ⟨v, ?_⟩
    simp only [ht, hv, loadC, hctr, Option.bind_eq_bind, Option.bind_some]

/-- The keystream applied twice gives the message back (R229). -/
theorem xorBytes_xorBytes (m : List Byte) : ∀ {ks : List Byte}, ks.length = m.length →
    xorBytes (xorBytes m ks) ks = m := by
  induction m with
  | nil => exact fun _ => rfl
  | cons b m ih =>
    intro ks h
    cases ks with
    | nil => cases h
    | cons k ks =>
      show (b ^^^ k ^^^ k) :: xorBytes (xorBytes m ks) ks = b :: m
      rw [ih (Nat.succ.inj h), xor_xor_cancel]

theorem ciphertext_length (m : List Byte) (K : Vector Word 8) (N : Vector Word 6) :
    (ciphertext m K N).length = m.length := by
  simp [ciphertext, xorBytes, keystream_length]

/-- The ciphertext is deciphered by enciphering it. -/
theorem ciphertext_ciphertext (m : List Byte) (K : Vector Word 8) (N : Vector Word 6) :
    ciphertext (ciphertext m K N) K N = m := by
  rw [ciphertext, ciphertext_length]
  exact xorBytes_xorBytes m (keystream_length K N _ _)

/-- The envelope of a plaintext: the nonce, the ciphertext and the tag (R260). -/
def envelope (h : HostParams) (m : List Byte) (K : Vector Word 8) (N : Vector Word 6) : List Byte :=
  wordBytes N.toList ++ ciphertext m K N ++ aeadTagBytes h m K N

/-- The length of an envelope, and the parts that `decrypt` cuts it into (R260). -/
theorem envelope_parts (h : HostParams) (m : List Byte) (K : Vector Word 8) (N : Vector Word 6) :
    (envelope h m K N).length = 24 + m.length + 16 ∧ (envelope h m K N).take 24 = wordBytes N.toList ∧
      ((envelope h m K N).drop 24).take m.length = ciphertext m K N ∧
      (envelope h m K N).drop (24 + m.length) = aeadTagBytes h m K N := by
  have hnonce : (wordBytes N.toList).length = 24 := by rw [wordBytes_length, Vector.length_toList]
  have hct := ciphertext_length m K N
  unfold envelope
  refine ⟨?_, ?_, ?_, ?_⟩
  · rw [List.length_append, List.length_append, hnonce, hct, aeadTagBytes_length]
  · rw [List.append_assoc, List.take_left' hnonce]
  · rw [List.append_assoc, List.drop_left' hnonce, List.take_left' hct]
  · exact List.drop_left' (by rw [List.length_append, hnonce, hct])

/-- `encrypt` on a ready core answers the envelope (R260). -/
theorem encrypt_ready {s : State} (hs : Ready s) (h : HostParams) (m : List Byte) (K : Vector Word 8)
    (N : Vector Word 6) : ∃ t, encrypt h m K N s = some (envelope h m K N, t) := by
  obtain ⟨t, ht, rfl, rfl, hctr, hr⟩ := aeadXor_ready hs m K N
  obtain ⟨u, hu⟩ := aeadTag_ready hr h m hctr
  refine ⟨u, ?_⟩
  simp only [encrypt, ht, hu, Option.bind_eq_bind, Option.bind_some]
  rfl

/-- `decrypt` of an envelope on a ready core (R260): the plaintext comes back, so the tag computed is the one received.
-/
theorem decrypt_envelope {s : State} (hs : Ready s) (h : HostParams) (m : List Byte) (K : Vector Word 8)
    (N : Vector Word 6) : decrypt h (envelope h m K N) K s = some (.plaintext m) := by
  obtain ⟨hlength, hnonce, hct, htag⟩ := envelope_parts h m K N
  obtain ⟨t, ht, hkey, hnonce', hctr, hr⟩ := aeadXor_ready hs (ciphertext m K N) K N
  rw [ciphertext_ciphertext] at ht
  rw [ciphertext_length] at hctr
  subst hkey hnonce'
  obtain ⟨u, hu⟩ := aeadTag_ready hr h m hctr
  have hlengthCt : 24 + m.length + 16 - 40 = m.length := by omega
  unfold decrypt
  rw [if_neg (by rw [hlength]; omega)]
  simp only [hlength, hlengthCt, Nat.add_sub_cancel, hnonce, hct, htag, nonceOfBytes, wordsOfBytes_wordBytes, ht, hu,
    Option.bind_eq_bind, Option.bind_some, if_true]

/-- Settles O57: `encrypt` answers the envelope, and its three parts give `decrypt` the same keystream and the same tag.
-/
theorem decryptUndoesEncrypt : Obligations.DecryptUndoesEncrypt := by
  intro h m K N s hs
  obtain ⟨t, ht⟩ := encrypt_ready hs h m K N
  obtain ⟨hlength, -⟩ := envelope_parts h m K N
  exact ⟨_, t, ht, hlength, fun s' hs' => decrypt_envelope hs' h m K N⟩

end Sys2Proof.Machine
end
